-- ==== Sys2Proof/Word.lean ====
section
/-!
DEFINITION. Sys2Proof/Word.lean: the word types of the CHIP-8 interpreter engine (00_scope.md R5, R7).
Every quantity is unsigned (R7). Widths are imposed here and nowhere else.
-/
namespace Sys2Proof

/-- A byte: the width of a general register, of a timer and of a memory cell (R5 `XLEN`). -/
abbrev Byte := BitVec 8

/-- A word, always 16 bits in this spec: an instruction, pc, I, a return address (R5, glossary). -/
abbrev Word := BitVec 16

/-- A 12-bit address: the range 0x000..0xFFF of main memory (20_memory.md R50), and the field NNN (30_encoding.md R71). -/
abbrev Addr := BitVec 12

/-- The index of a general register, 0..15 (10_state.md R20). -/
abbrev Reg := Fin 16

/-- The number of a key, 0x0..0xF (10_state.md R30). -/
abbrev Key := Fin 16

/-- A keypad sample: bit k is key k, 1 = pressed (10_state.md R30, R36 "one 16-bit vector per cycle"). -/
abbrev Keys := BitVec 16

/-- VF, the register of index 15, which doubles as the flag (10_state.md R21). -/
abbrev regF : Reg := 15

end Sys2Proof
end

