-- ==== Sys2Proof/Syntax.lean ====
section
/-!
DEFINITION. Sys2Proof/Syntax.lean: the 35 instructions (30_encoding.md R74, R75), one constructor per row of
spec/opcode_table.json, named after R74's decode names.
-/
namespace Sys2Proof

/-- An instruction: operation kind and operand fields (R71, R74). `x`, `y` are register indexes, `nn` a byte, `nnn` a
12-bit address, `n` a nibble. -/
inductive Instr where
  /-- 0NNN `SYS NNN`, other than 00E0 and 00EE (R135). -/
  | sys (nnn : Addr)
  /-- 00E0 `CLS` (R161). -/
  | cls
  /-- 00EE `RET` (R132). -/
  | ret
  /-- 1NNN `JP NNN` (R133). -/
  | jp (nnn : Addr)
  /-- 2NNN `CALL NNN` (R131). -/
  | call (nnn : Addr)
  /-- 3XNN `SE Vx, NN` (R121). -/
  | seImm (x : Reg) (nn : Byte)
  /-- 4XNN `SNE Vx, NN` (R122). -/
  | sneImm (x : Reg) (nn : Byte)
  /-- 5XY0 `SE Vx, Vy` (R123). -/
  | seReg (x y : Reg)
  /-- 6XNN `LD Vx, NN` (R101). -/
  | ldImm (x : Reg) (nn : Byte)
  /-- 7XNN `ADD Vx, NN` (R102). -/
  | addImm (x : Reg) (nn : Byte)
  /-- 8XY0 `LD Vx, Vy` (R103). -/
  | ldReg (x y : Reg)
  /-- 8XY1 `OR Vx, Vy` (R104). -/
  | orReg (x y : Reg)
  /-- 8XY2 `AND Vx, Vy` (R105). -/
  | andReg (x y : Reg)
  /-- 8XY3 `XOR Vx, Vy` (R106). -/
  | xorReg (x y : Reg)
  /-- 8XY4 `ADD Vx, Vy` (R107). -/
  | addReg (x y : Reg)
  /-- 8XY5 `SUB Vx, Vy` (R108). -/
  | sub (x y : Reg)
  /-- 8XY6 `SHR Vx, Vy` (R109). -/
  | shr (x y : Reg)
  /-- 8XY7 `SUBN Vx, Vy` (R110). -/
  | subn (x y : Reg)
  /-- 8XYE `SHL Vx, Vy` (R111). -/
  | shl (x y : Reg)
  /-- 9XY0 `SNE Vx, Vy` (R124). -/
  | sneReg (x y : Reg)
  /-- ANNN `LD I, NNN` (R150). -/
  | ldI (nnn : Addr)
  /-- BNNN `JP V0, NNN` (R134). -/
  | jpOff (nnn : Addr)
  /-- CXNN `RND Vx, NN` (R112). -/
  | rnd (x : Reg) (nn : Byte)
  /-- DXYN `DRW Vx, Vy, N` (R162). -/
  | drw (x y : Reg) (n : Fin 16)
  /-- EX9E `SKP Vx` (R171). -/
  | skp (x : Reg)
  /-- EXA1 `SKNP Vx` (R172). -/
  | sknp (x : Reg)
  /-- FX07 `LD Vx, DT` (R140). -/
  | ldFromDt (x : Reg)
  /-- FX0A `LD Vx, K` (R173). -/
  | ldKey (x : Reg)
  /-- FX15 `LD DT, Vx` (R141). -/
  | ldDt (x : Reg)
  /-- FX18 `LD ST, Vx` (R142). -/
  | ldSt (x : Reg)
  /-- FX1E `ADD I, Vx` (R151). -/
  | addI (x : Reg)
  /-- FX29 `LD F, Vx` (R152). -/
  | ldFont (x : Reg)
  /-- FX33 `LD B, Vx` (R180). -/
  | bcd (x : Reg)
  /-- FX55 `LD [I], Vx` (R181). -/
  | store (x : Reg)
  /-- FX65 `LD Vx, [I]` (R182). -/
  | load (x : Reg)
  deriving DecidableEq, Repr

end Sys2Proof
end

