-- ==== Sys2Proof/WellFormed.lean ====
section
/-!
DEFINITION. Sys2Proof/WellFormed.lean: which terms of Instr are instructions of the table. Every operand field has exactly the
width of its bits, so one check is left: `SYS NNN` is taken only when neither 00E0 nor 00EE matches (30_encoding.md R75).
-/
namespace Sys2Proof

/-- `i` is what its own word decodes to (R74: "every other 0NNN"). -/
def Instr.wf (i : Instr) : Bool :=
  match i with
  | .sys nnn => nnn != 0x0E0 && nnn != 0x0EE
  | .cls => true
  | .ret => true
  | .jp _ => true
  | .call _ => true
  | .seImm _ _ => true
  | .sneImm _ _ => true
  | .seReg _ _ => true
  | .ldImm _ _ => true
  | .addImm _ _ => true
  | .ldReg _ _ => true
  | .orReg _ _ => true
  | .andReg _ _ => true
  | .xorReg _ _ => true
  | .addReg _ _ => true
  | .sub _ _ => true
  | .shr _ _ => true
  | .subn _ _ => true
  | .shl _ _ => true
  | .sneReg _ _ => true
  | .ldI _ => true
  | .jpOff _ => true
  | .rnd _ _ => true
  | .drw _ _ _ => true
  | .skp _ => true
  | .sknp _ => true
  | .ldFromDt _ => true
  | .ldKey _ => true
  | .ldDt _ => true
  | .ldSt _ => true
  | .addI _ => true
  | .ldFont _ => true
  | .bcd _ => true
  | .store _ => true
  | .load _ => true

end Sys2Proof
end

