-- ==== Sys2Proof/Decode.lean ====
section
/-!
DEFINITION. Sys2Proof/Decode.lean: the fields of a word (30_encoding.md R71), the decoder (R74), total on any bytes and
rejecting by name, the encoder and the table of masks and matches (R75).
-/
namespace Sys2Proof

/-! ## Fields (R71) -/

/-- `OP`, bits 15:12. -/
def opField (w : Word) : BitVec 4 := w.extractLsb' 12 4

/-- `X`, bits 11:8, a register index. -/
def xField (w : Word) : Reg := (w.extractLsb' 8 4).toFin

/-- `Y`, bits 7:4, a register index. -/
def yField (w : Word) : Reg := (w.extractLsb' 4 4).toFin

/-- `N`, bits 3:0. -/
def nField (w : Word) : Fin 16 := (w.extractLsb' 0 4).toFin

/-- `NN`, bits 7:0. -/
def nnField (w : Word) : Byte := w.extractLsb' 0 8

/-- `NNN`, bits 11:0. -/
def nnnField (w : Word) : Addr := w.extractLsb' 0 12

/-- The four bits of a register index or of a height. -/
def nibble (x : Fin 16) : BitVec 4 := BitVec.ofFin x

/-- Format A (R72): `OP ++ NNN`. -/
def wordA (op : BitVec 4) (nnn : Addr) : Word := op ++ nnn

/-- Formats XI and XS (R72): `OP ++ X ++ NN`. -/
def wordXI (op : BitVec 4) (x : Reg) (nn : Byte) : Word := op ++ nibble x ++ nn

/-- Formats XY and XYN (R72): `OP ++ X ++ Y ++ N`. -/
def wordXY (op : BitVec 4) (x y : Reg) (n : Fin 16) : Word := op ++ nibble x ++ nibble y ++ nibble n

/-! ## Decoding (R74) -/

/-- Why bytes are no instruction. -/
inductive DecodeReject where
  /-- The word is in one of R76's spaces: R74's `Unknown`. -/
  | unknownWord (w : Word)
  /-- Fewer than two bytes were given; the machine never asks this (its fetch faults instead, R53). -/
  | tooFewBytes (bytes : List Byte)
  deriving DecidableEq, Repr

/-- `Decode(w)` (R74). It depends on no switch and on no state. -/
def decodeWord (w : Word) : Except DecodeReject Instr :=
  match opField w with
  | 0x0#4 =>
    if w = 0x00E0#16 then .ok .cls
    else if w = 0x00EE#16 then .ok .ret
    else .ok (.sys (nnnField w))
  | 0x1#4 => .ok (.jp (nnnField w))
  | 0x2#4 => .ok (.call (nnnField w))
  | 0x3#4 => .ok (.seImm (xField w) (nnField w))
  | 0x4#4 => .ok (.sneImm (xField w) (nnField w))
  | 0x5#4 => if nField w = 0 then .ok (.seReg (xField w) (yField w)) else .error (.unknownWord w)
  | 0x6#4 => .ok (.ldImm (xField w) (nnField w))
  | 0x7#4 => .ok (.addImm (xField w) (nnField w))
  | 0x8#4 =>
    match (nField w).val with
    | 0x0 => .ok (.ldReg (xField w) (yField w))
    | 0x1 => .ok (.orReg (xField w) (yField w))
    | 0x2 => .ok (.andReg (xField w) (yField w))
    | 0x3 => .ok (.xorReg (xField w) (yField w))
    | 0x4 => .ok (.addReg (xField w) (yField w))
    | 0x5 => .ok (.sub (xField w) (yField w))
    | 0x6 => .ok (.shr (xField w) (yField w))
    | 0x7 => .ok (.subn (xField w) (yField w))
    | 0xE => .ok (.shl (xField w) (yField w))
    | _ => .error (.unknownWord w)
  | 0x9#4 => if nField w = 0 then .ok (.sneReg (xField w) (yField w)) else .error (.unknownWord w)
  | 0xA#4 => .ok (.ldI (nnnField w))
  | 0xB#4 => .ok (.jpOff (nnnField w))
  | 0xC#4 => .ok (.rnd (xField w) (nnField w))
  | 0xD#4 => .ok (.drw (xField w) (yField w) (nField w))
  | 0xE#4 =>
    match (nnField w).toNat with
    | 0x9E => .ok (.skp (xField w))
    | 0xA1 => .ok (.sknp (xField w))
    | _ => .error (.unknownWord w)
  | _ => -- 0xF, the sixteenth class
    match (nnField w).toNat with
    | 0x07 => .ok (.ldFromDt (xField w))
    | 0x0A => .ok (.ldKey (xField w))
    | 0x15 => .ok (.ldDt (xField w))
    | 0x18 => .ok (.ldSt (xField w))
    | 0x1E => .ok (.addI (xField w))
    | 0x29 => .ok (.ldFont (xField w))
    | 0x33 => .ok (.bcd (xField w))
    | 0x55 => .ok (.store (xField w))
    | 0x65 => .ok (.load (xField w))
    | _ => .error (.unknownWord w)

/-- The decoder on bytes: the byte at the lower address is the high byte of the word (R70, 20_memory.md R53). -/
def decode (bytes : List Byte) : Except DecodeReject (Instr × List Byte) :=
  match bytes with
  | hi :: lo :: rest =>
    match decodeWord (hi ++ lo) with
    | .ok i => .ok (i, rest)
    | .error e => .error e
  | _ => .error (.tooFewBytes bytes)

/-! ## Encoding (R75) -/

/-- The word of an instruction: its row's pattern with the operand fields in place (R72, R75, R78). -/
def encodeWord (i : Instr) : Word :=
  match i with
  | .sys nnn => wordA 0x0#4 nnn
  | .cls => 0x00E0#16
  | .ret => 0x00EE#16
  | .jp nnn => wordA 0x1#4 nnn
  | .call nnn => wordA 0x2#4 nnn
  | .seImm x nn => wordXI 0x3#4 x nn
  | .sneImm x nn => wordXI 0x4#4 x nn
  | .seReg x y => wordXY 0x5#4 x y 0x0
  | .ldImm x nn => wordXI 0x6#4 x nn
  | .addImm x nn => wordXI 0x7#4 x nn
  | .ldReg x y => wordXY 0x8#4 x y 0x0
  | .orReg x y => wordXY 0x8#4 x y 0x1
  | .andReg x y => wordXY 0x8#4 x y 0x2
  | .xorReg x y => wordXY 0x8#4 x y 0x3
  | .addReg x y => wordXY 0x8#4 x y 0x4
  | .sub x y => wordXY 0x8#4 x y 0x5
  | .shr x y => wordXY 0x8#4 x y 0x6
  | .subn x y => wordXY 0x8#4 x y 0x7
  | .shl x y => wordXY 0x8#4 x y 0xE
  | .sneReg x y => wordXY 0x9#4 x y 0x0
  | .ldI nnn => wordA 0xA#4 nnn
  | .jpOff nnn => wordA 0xB#4 nnn
  | .rnd x nn => wordXI 0xC#4 x nn
  | .drw x y n => wordXY 0xD#4 x y n
  | .skp x => wordXI 0xE#4 x 0x9E#8
  | .sknp x => wordXI 0xE#4 x 0xA1#8
  | .ldFromDt x => wordXI 0xF#4 x 0x07#8
  | .ldKey x => wordXI 0xF#4 x 0x0A#8
  | .ldDt x => wordXI 0xF#4 x 0x15#8
  | .ldSt x => wordXI 0xF#4 x 0x18#8
  | .addI x => wordXI 0xF#4 x 0x1E#8
  | .ldFont x => wordXI 0xF#4 x 0x29#8
  | .bcd x => wordXI 0xF#4 x 0x33#8
  | .store x => wordXI 0xF#4 x 0x55#8
  | .load x => wordXI 0xF#4 x 0x65#8

/-- The high byte of a word, stored at the lower address (R71). -/
def hiByte (w : Word) : Byte := w.extractLsb' 8 8

/-- The low byte of a word, stored at the higher address (R71). -/
def loByte (w : Word) : Byte := w.extractLsb' 0 8

/-- The two bytes of a word as memory holds them, lower address first (R70). -/
def wordBytes (w : Word) : List Byte := [hiByte w, loByte w]

/-- The bytes of an instruction as memory holds them. -/
def encode (i : Instr) : List Byte := wordBytes (encodeWord i)

/-- One row's fixed bits: `w &&& mask = pat` selects the row (R75). -/
structure EncRow where
  /-- The row's Match column. -/
  pat : Word
  /-- The row's Mask column. -/
  mask : Word
  deriving DecidableEq, Repr

/-- R75's Match and Mask columns. -/
def encRow (i : Instr) : EncRow :=
  match i with
  | .sys _ => ⟨0x0000#16, 0xF000#16⟩
  | .cls => ⟨0x00E0#16, 0xFFFF#16⟩
  | .ret => ⟨0x00EE#16, 0xFFFF#16⟩
  | .jp _ => ⟨0x1000#16, 0xF000#16⟩
  | .call _ => ⟨0x2000#16, 0xF000#16⟩
  | .seImm _ _ => ⟨0x3000#16, 0xF000#16⟩
  | .sneImm _ _ => ⟨0x4000#16, 0xF000#16⟩
  | .seReg _ _ => ⟨0x5000#16, 0xF00F#16⟩
  | .ldImm _ _ => ⟨0x6000#16, 0xF000#16⟩
  | .addImm _ _ => ⟨0x7000#16, 0xF000#16⟩
  | .ldReg _ _ => ⟨0x8000#16, 0xF00F#16⟩
  | .orReg _ _ => ⟨0x8001#16, 0xF00F#16⟩
  | .andReg _ _ => ⟨0x8002#16, 0xF00F#16⟩
  | .xorReg _ _ => ⟨0x8003#16, 0xF00F#16⟩
  | .addReg _ _ => ⟨0x8004#16, 0xF00F#16⟩
  | .sub _ _ => ⟨0x8005#16, 0xF00F#16⟩
  | .shr _ _ => ⟨0x8006#16, 0xF00F#16⟩
  | .subn _ _ => ⟨0x8007#16, 0xF00F#16⟩
  | .shl _ _ => ⟨0x800E#16, 0xF00F#16⟩
  | .sneReg _ _ => ⟨0x9000#16, 0xF00F#16⟩
  | .ldI _ => ⟨0xA000#16, 0xF000#16⟩
  | .jpOff _ => ⟨0xB000#16, 0xF000#16⟩
  | .rnd _ _ => ⟨0xC000#16, 0xF000#16⟩
  | .drw _ _ _ => ⟨0xD000#16, 0xF000#16⟩
  | .skp _ => ⟨0xE09E#16, 0xF0FF#16⟩
  | .sknp _ => ⟨0xE0A1#16, 0xF0FF#16⟩
  | .ldFromDt _ => ⟨0xF007#16, 0xF0FF#16⟩
  | .ldKey _ => ⟨0xF00A#16, 0xF0FF#16⟩
  | .ldDt _ => ⟨0xF015#16, 0xF0FF#16⟩
  | .ldSt _ => ⟨0xF018#16, 0xF0FF#16⟩
  | .addI _ => ⟨0xF01E#16, 0xF0FF#16⟩
  | .ldFont _ => ⟨0xF029#16, 0xF0FF#16⟩
  | .bcd _ => ⟨0xF033#16, 0xF0FF#16⟩
  | .store _ => ⟨0xF055#16, 0xF0FF#16⟩
  | .load _ => ⟨0xF065#16, 0xF0FF#16⟩

/-! ## The host's question -/

/-- The instruction the decoder reads from the bits `w` of a row of `nbits` bits, numbered as spec/opcode_table.json numbers
them: one 16-bit word, laid out high byte first as memory holds it (R70). Bits above `nbits` are 0. -/
def decodeTableWord (nbits w : Nat) : Option Instr :=
  match decode (wordBytes (BitVec.ofNat 16 (w % 2 ^ nbits))) with
  | .ok (i, _) => some i
  | .error _ => none

end Sys2Proof
end

