-- ==== Sys2Proof/Config.lean ====
section
/-!
DEFINITION. Sys2Proof/Config.lean: what an implementation fixes (00_scope.md R5, R6), and the free inputs of a cycle
(40_cycle.md R96). The two opaque constants have no body: nothing in Lean can prove a value of either, so what is proved of
the machine holds whatever configuration is supplied and whatever the outside does (notes/assumptions/1.md, 2.md).
-/
namespace Sys2Proof

/-- `MEM_SIZE` (R5). -/
abbrev memSize : Nat := 4096
/-- `PROG_ORIGIN` (R5). -/
abbrev progOrigin : Nat := 0x200
/-- `MAX_PROG_LEN` = 4096 - 0x200 (R5). -/
abbrev maxProgLen : Nat := 3584
/-- `STACK_DEPTH` (R5, D9). -/
abbrev stackDepth : Nat := 16
/-- `DISP_W` (R5). -/
abbrev dispW : Nat := 64
/-- `DISP_H` (R5). -/
abbrev dispH : Nat := 32

/-- `UNKNOWN_POLICY` (R6): what an UnknownInstruction does (60_exceptions.md R204). -/
inductive UnknownPolicy where
  | fatal
  | skip
  deriving DecidableEq, Repr, Inhabited

/-- The open parameters of the hardware (R6), "resolved once before execution begins; immutable during a run". -/
structure Config where
  /-- `Q_ADDI_OVERFLOW`: FX1E writes the overflow flag to VF. -/
  addiOverflow : Bool
  /-- `Q_SHIFT_READS_DEST`: 8XY6 and 8XYE shift Vx (true) or Vy (false). -/
  shiftReadsDest : Bool
  /-- `Q_JUMP_USES_VX`: BNNN adds V[X] (true) or V0 (false). -/
  jumpUsesVx : Bool
  /-- `Q_LOADSTORE_INC`: FX55 and FX65 advance I by X+1 (true) or leave it (false). -/
  loadStoreInc : Bool
  /-- `Q_SPRITE_WRAP`: DXYN wraps pixels past an edge (true) or clips them (false). -/
  spriteWrap : Bool
  /-- `UNKNOWN_POLICY`. -/
  unknownPolicy : UnknownPolicy
  /-- `CYCLES_PER_FRAME`: instruction cycles between two timer ticks, 0 allowed. -/
  cyclesPerFrame : Nat
  /-- `FONT_BASE`, with `FONT_BASE + 80 <= 0x200`, so at most 432. -/
  fontBase : Fin 433
  deriving DecidableEq, Repr, Inhabited

/-- The three inputs of one cycle (40_cycle.md R96). -/
structure CycleInput where
  /-- `K`, the keypad sample. -/
  keys : Keys
  /-- `rnd`, the byte drawn for this cycle; only CXNN reads it. -/
  rnd : Byte
  /-- The shutdown request. -/
  shutdown : Bool
  deriving DecidableEq, Repr, Inhabited

/-- FREE VALUE. The configuration that the configuration collaborator supplies before the first cycle (60_exceptions.md
R226); no source gives a value (notes/assumptions/1.md). -/
opaque Config.supplied : Config

/-- FREE VALUE. The input of the n-th sample taken, where no input has been scheduled: any keys, any byte, a shutdown at
any cycle (40_cycle.md R96, 41_arith_logic.md R112; notes/assumptions/2.md). -/
opaque Config.freeInput : Nat → CycleInput

end Sys2Proof
end

