-- ==== Sys2Proof/Machine/Font.lean ====
section
/-!
DEFINITION. Sys2Proof/Machine/Font.lean: the font (20_memory.md R59) and what an address that nothing has written reads as
(10_state.md R37: the font at FONT_BASE, 0 everywhere else).
-/
namespace Sys2Proof.Machine

/-- Glyphs 0 to 3 (R59). -/
def glyphs03 : List Byte :=
  [0xF0, 0x90, 0x90, 0x90, 0xF0] ++ [0x20, 0x60, 0x20, 0x20, 0x70] ++
  [0xF0, 0x10, 0xF0, 0x80, 0xF0] ++ [0xF0, 0x10, 0xF0, 0x10, 0xF0]

/-- Glyphs 4 to 7 (R59). -/
def glyphs47 : List Byte :=
  [0x90, 0x90, 0xF0, 0x10, 0x10] ++ [0xF0, 0x80, 0xF0, 0x10, 0xF0] ++
  [0xF0, 0x80, 0xF0, 0x90, 0xF0] ++ [0xF0, 0x10, 0x20, 0x40, 0x40]

/-- Glyphs 8 to B (R59). -/
def glyphs8B : List Byte :=
  [0xF0, 0x90, 0xF0, 0x90, 0xF0] ++ [0xF0, 0x90, 0xF0, 0x10, 0xF0] ++
  [0xF0, 0x90, 0xF0, 0x90, 0x90] ++ [0xE0, 0x90, 0xE0, 0x90, 0xE0]

/-- Glyphs C to F (R59). -/
def glyphsCF : List Byte :=
  [0xF0, 0x80, 0x80, 0x80, 0xF0] ++ [0xE0, 0x90, 0x90, 0x90, 0xE0] ++
  [0xF0, 0x80, 0xF0, 0x80, 0xF0] ++ [0xF0, 0x80, 0xF0, 0x80, 0x80]

/-- The 80 font bytes in digit order (R59). -/
def fontBytes : List Byte := glyphs03 ++ glyphs47 ++ glyphs8B ++ glyphsCF

/-- What address `a` reads as until something is written there: its power-on content (R37, R58, R59), where `fb` is
`FONT_BASE`. The font lies below 0x200; everything else is 0. -/
def unlisted (fb a : Nat) : Byte :=
  if a < 0x200 then
    if fb ≤ a ∧ a < fb + 80 then fontBytes.getD (a - fb) 0 else 0
  else 0

end Sys2Proof.Machine
end

