-- ==== Sys2Proof/Machine/State.lean ====
section
/-!
DEFINITION. Sys2Proof/Machine/State.lean: the faults, the run status, the state of the whole block as plain data
(10_state.md R20 to R36) and its value after power-on (R37, 70_reset_and_hazards.md R240).
-/
namespace Sys2Proof.Machine

/-- The closed fault taxonomy of 60_exceptions.md R200, R206: five names, no codes. The first four are held in
`Status.halted` by a NEXT state and are never the outcome of a step (notes/assumptions/4.md); the fifth is the answer of
`State.loadProgram`. -/
inductive Fault where
  /-- Raised by the instruction fetch when pc > 0xFFE (R201), and by nothing else. Safe: the spec's own halt. -/
  | outOfBoundsAddress
  /-- Raised by 2NNN with 16 return addresses on the stack (R202). Safe: the spec's own halt. -/
  | stackOverflow
  /-- Raised by 00EE with an empty stack (R203). Safe: the spec's own halt. -/
  | stackUnderflow
  /-- Raised by a word outside the dispatch table and by SYS (R204). Safe: the spec's own halt; unsafe where the real engine
  ignores 0NNN and a claim says that it halts (D7). -/
  | unknownInstruction
  /-- Answered by a load longer than 3584 bytes, which leaves everything as it was (R205, R225). Raised by no instruction
  and no step. Safe: the spec's own refusal of the load. -/
  | programTooLarge
  deriving DecidableEq, Repr

/-- Why the model gives an instruction no meaning. Every instruction of the table has its meaning, so nothing raises it. -/
inductive Refusal where
  /-- Raised by a rejected arm of `exec` only; no arm is rejected. Safe: it stops where the hardware goes on. -/
  | notModelled (mnemonic : String)
  deriving DecidableEq, Repr

/-- The run status (10_state.md R34). -/
inductive Status where
  /-- The driver runs cycles and ticks. -/
  | running
  /-- `Halted(f, a, w)`: fault f, the address a the faulting instruction was or would have been fetched from, the word w
  where one was fetched. -/
  | halted (f : Fault) (a : Word) (w : Option Word)
  /-- A shutdown request has been honoured (60_exceptions.md R227). -/
  | stopped
  deriving DecidableEq, Repr

/-- Main memory (20_memory.md R50) as the addresses whose byte differs from the power-on content, strictly rising. -/
abbrev Memory := List Host.Cell

/-- The display buffer D: 32 rows of 64 pixels, row 0 at the top, column 0 at the left, true = lit (10_state.md R29). -/
abbrev Display := Vector (Vector Bool 64) 32

/-- The state of the whole block (10_state.md), with the model's own three last fields. -/
structure State where
  /-- V0..VF (R20); VF is index 15 (R21). -/
  v : Vector Byte 16
  /-- The address register I (R22). -/
  i : Word
  /-- The program counter (R23). -/
  pc : Word
  /-- The call stack's entries (R24); those at sp and above are dead. -/
  stack : Vector Word 16
  /-- The stack pointer: the number of return addresses on the stack, 0..16 (R25). -/
  sp : Fin 17
  /-- The delay timer (R26). -/
  dt : Byte
  /-- The sound timer (R27). -/
  st : Byte
  /-- Main memory (R28). -/
  mem : Memory
  /-- The display buffer (R29). -/
  display : Display
  /-- The awaiting-key flag (R32). -/
  wait : Option Reg
  /-- The key latch: the sample of the previous cycle (R33). -/
  kprev : Keys
  /-- The run status (R34). -/
  status : Status
  /-- The driver's frame position: cycles already run in this frame (R35). -/
  phase : Nat
  /-- The configuration (R31, R36): no state of the block, a parameter of the step that no step changes. -/
  cfg : Config
  /-- MODEL. The inputs of the coming cycles that are known, oldest first (40_cycle.md R96; notes/assumptions/3.md). -/
  inputs : List CycleInput
  /-- MODEL. How many input samples have been taken (notes/assumptions/3.md). -/
  drawNo : Nat
  deriving DecidableEq, Repr

/-- Power-on reset with the configuration `c` (R37, R240). -/
def State.powerOn (c : Config) : State where
  v := Vector.replicate 16 0
  i := 0
  pc := 0x200
  stack := Vector.replicate 16 0
  sp := 0
  dt := 0
  st := 0
  mem := []
  display := Vector.replicate 32 (Vector.replicate 64 false)
  wait := none
  kprev := 0
  status := .running
  phase := 0
  cfg := c
  inputs := []
  drawNo := 0

/-- The machine right after power-on, under the configuration supplied from outside, of which nothing is known
(R31 "no reset value: it must be supplied"; notes/assumptions/1.md). -/
def State.reset : State := State.powerOn Config.supplied

end Sys2Proof.Machine
end

