-- ==== Sys2Proof/Machine/Memory.lean ====
section
/-!
DEFINITION. Sys2Proof/Machine/Memory.lean: main memory as a sorted list of the bytes that differ from the power-on content
(20_memory.md R50, R57, R58), its canonical form and its two operations.
-/
namespace Sys2Proof.Machine

/-- The byte at address `a`: the byte last written there, else its power-on content (R57). -/
def Memory.read (fb : Nat) (m : Memory) (a : Nat) : Byte :=
  match m with
  | [] => unlisted fb a
  | (b, u) :: m' => if a = b then u else Memory.read fb m' a

/-- Memory with no entry for address `a`. -/
def Memory.drop (m : Memory) (a : Nat) : Memory := m.filter (fun c => c.1 != a)

/-- Memory with the entry (a, u) put in before the first higher address. -/
def Memory.insert (m : Memory) (a : Nat) (u : Byte) : Memory :=
  match m with
  | [] => [(a, u)]
  | (b, x) :: m' => if a < b then (a, u) :: (b, x) :: m' else (b, x) :: Memory.insert m' a u

/-- Memory with byte `u` at address `a` (R51 `mem[addr] <- v`), in canonical form if it was: a byte that is the power-on
content is not listed. -/
def Memory.write (fb : Nat) (m : Memory) (a : Nat) (u : Byte) : Memory :=
  if u = unlisted fb a then Memory.drop m a else Memory.insert (Memory.drop m a) a u

/-- The canonical form: addresses strictly rising and inside 0..4095, no entry equal to its power-on content. -/
abbrev Memory.wf (fb : Nat) (m : Memory) : Prop :=
  m.Pairwise (fun c d => c.1 < d.1) ∧ ∀ c ∈ m, c.1 < memSize ∧ c.2 ≠ unlisted fb c.1

end Sys2Proof.Machine
end

