-- ==== Sys2Proof/Machine/Ops.lean ====
section
/-!
DEFINITION. Sys2Proof/Machine/Ops.lean: the named operations over registers, memory, stack, program counter and status
(00_scope.md R9), with taking a fault (40_cycle.md R97) and the one way back from it (10_state.md R38).
-/
namespace Sys2Proof.Machine

/-- What a meaning answers. -/
abbrev ExecOut := Host.Outcome State Fault Refusal

/-! ## General registers (R20) -/

/-- `V[x]`. -/
def State.reg (s : State) (x : Reg) : Byte := s.v[x]

/-- `V[x] <- b`. -/
def State.setReg (s : State) (x : Reg) (b : Byte) : State := { s with v := s.v.set x b }

/-! ## Special registers (R22, R26, R27, R32) -/

/-- `I <- a`. -/
def State.setI (s : State) (a : Word) : State := { s with i := a }

/-- `DT <- b`. -/
def State.setDt (s : State) (b : Byte) : State := { s with dt := b }

/-- `ST <- b`. -/
def State.setSt (s : State) (b : Byte) : State := { s with st := b }

/-- `wait <- w`. -/
def State.setWait (s : State) (w : Option Reg) : State := { s with wait := w }

/-- `D <- d`. -/
def State.setDisplay (s : State) (d : Display) : State := { s with display := d }

/-- `status <- x`. -/
def State.setStatus (s : State) (x : Status) : State := { s with status := x }

/-- `phase <- n`. -/
def State.setPhase (s : State) (n : Nat) : State := { s with phase := n }

/-! ## The program counter (R23, R93, R120, R130) -/

/-- `pc <- target`, unchecked and unmasked (R130). -/
def State.setPc (s : State) (a : Word) : State := { s with pc := a }

/-- The fetch advance `pc <- pc0 + 2` (R93). -/
def State.advance (s : State) : State := s.setPc (s.pc + 2)

/-- `skip`: `pc <- pc + 2` on top of the fetch advance (42_skips.md R120). -/
def State.skip (s : State) : State := s.setPc (s.pc + 2)

/-- Skip when the comparison holds. -/
def State.skipIf (s : State) (c : Bool) : State := if c then s.skip else s

/-- `zext_16(NNN)` (30_encoding.md R73). -/
def zext16 (a : Addr) : Word := a.setWidth 16

/-! ## Memory (20_memory.md R51 to R54) -/

/-- `FONT_BASE` as a number. -/
def State.fb (s : State) : Nat := s.cfg.fontBase.val

/-- The byte that memory holds at `a`, for any number `a`. -/
def State.byteAt (s : State) (a : Nat) : Byte := Memory.read s.fb s.mem a

/-- `m12(a) = a & 0xFFF` (R52): the mask of every data address and of every value written to I. -/
def m12 (a : Word) : Addr := a.setWidth 12

/-- `MemRead(a, 1)` at a masked address, which cannot be out of range (R51, R52). -/
def State.readByte (s : State) (a : Addr) : Byte := s.byteAt a.toNat

/-- `MemWrite(a, 1, b)` at a masked address, which cannot be out of range (R51, R52). -/
def State.writeByte (s : State) (a : Addr) (b : Byte) : State :=
  { s with mem := Memory.write s.fb s.mem a.toNat b }

/-- `MemRead(pc, 2)` (R53): none is the raise of OutOfBoundsAddress; else the word, big-endian. -/
def State.fetch (s : State) : Option Word :=
  if 0xFFE < s.pc.toNat then none
  else some (s.byteAt s.pc.toNat ++ s.byteAt (s.pc.toNat + 1))

/-! ## The call stack (10_state.md R24, R25) -/

/-- `Push(a)`: none is the raise of StackOverflow. -/
def State.push (s : State) (a : Word) : Option State :=
  if h : s.sp.val < 16 then
    some { s with stack := s.stack.set s.sp.val a, sp := ⟨s.sp.val + 1, by omega⟩ }
  else none

/-- `Pop()`: none is the raise of StackUnderflow; else the address popped and the state after it. -/
def State.pop (s : State) : Option (Word × State) :=
  if h : 0 < s.sp.val then
    some (s.stack[s.sp.val - 1], { s with sp := ⟨s.sp.val - 1, by omega⟩ })
  else none

/-! ## The inputs of a cycle (40_cycle.md R96) -/

/-- The input of the next sample: the oldest scheduled one, else a free one. -/
def State.input (s : State) : CycleInput :=
  match s.inputs with
  | x :: _ => x
  | [] => Config.freeInput s.drawNo

/-- `K`, the keypad sample of this cycle. -/
def State.keys (s : State) : Keys := s.input.keys

/-- Whether key `k` is down in this cycle's sample: `K[k] = 1`. -/
def State.keyDown (s : State) (k : Key) : Bool := s.keys.getLsbD k.val

/-- The sample has been used. -/
def State.consumeInput (s : State) : State := { s with inputs := s.inputs.tail, drawNo := s.drawNo + 1 }

/-- `Kprev <- K` (R91 step 7). -/
def State.latch (s : State) : State := { s with kprev := s.keys }

/-! ## Faults (40_cycle.md R97, 60_exceptions.md R204, R207) -/

/-- A raise of fault `f` by the instruction at `pc0`, whose word is `w` where one was fetched. Nothing but the pc advance
has been written, so putting pc back to `pc0` leaves the state as it was before the cycle. Under the Skip policy an unknown
word is passed over instead. -/
def State.raise (s : State) (f : Fault) (pc0 : Word) (w : Option Word) : State :=
  if f = .unknownInstruction ∧ s.cfg.unknownPolicy = .skip then s.setPc (pc0 + 2)
  else (s.setPc pc0).setStatus (.halted f pc0 w)

/-- A raise inside a handler, which runs with `pc = pc0 + 2` (R93). -/
def State.raiseInHandler (s : State) (f : Fault) (w : Word) : State := s.raise f (s.pc - 2) (some w)

/-- The load reset (10_state.md R38), the one way out of Halted and Stopped (60_exceptions.md R209): registers, pc, stack,
timers, key wait, latch, status and phase to their initial values; memory and display as they are. -/
def State.loadReset (s : State) : State :=
  { s with
    v := Vector.replicate 16 0, i := 0, pc := 0x200, stack := Vector.replicate 16 0, sp := 0, dt := 0, st := 0,
    wait := none, kprev := 0, status := .running, phase := 0 }

end Sys2Proof.Machine
end

