-- ==== Sys2Proof/Machine/Flags.lean ====
section
/-!
DEFINITION. Sys2Proof/Machine/Flags.lean: every flag computation of the spec (10_state.md R21), each from the unbounded
result (41_arith_logic.md R100(c)), and the order of the two writes (R100(b)).
-/
namespace Sys2Proof.Machine

/-- The byte a flag is written as. -/
def flagByte (c : Bool) : Byte := if c then 1 else 0

/-- The carry of `a + b`: the sum exceeds 255 (R107). -/
def carryOf (a b : Byte) : Bool := decide (255 < a.toNat + b.toNat)

/-- The borrow of `a - b`: the unbounded difference is negative (R108, R110; 90_conflicts.md C5). -/
def borrowOf (a b : Byte) : Bool := decide ((a.toNat : Int) - (b.toNat : Int) < 0)

/-- The bit 8XY6 shifts out: bit 0 (R109). -/
def shiftedOutRight (t : Byte) : Bool := t.getLsbD 0

/-- The bit 8XYE shifts out: bit 7 (R111). -/
def shiftedOutLeft (t : Byte) : Bool := t.getLsbD 7

/-- The overflow of FX1E: `I + V[X]` exceeds 0xFFF (45_address_register.md R151). -/
def addIOverflowOf (i : Word) (a : Byte) : Bool := decide (0xFFF < i.toNat + a.toNat)

/-- The result to V[x] first, the flag to VF second (R100(b)): with x = 15 the flag wins. -/
def State.setRegFlag (s : State) (x : Reg) (r : Byte) (c : Bool) : State := (s.setReg x r).setReg regF (flagByte c)

end Sys2Proof.Machine
end

