-- ==== Sys2Proof/Machine/Operands.lean ====
section
/-!
DEFINITION. Sys2Proof/Machine/Operands.lean: every operand form of the spec: the effective address, the shifted operand, the
jump's register, the key and digit selected by a register, the range V0..VX and the decimal digits.
-/
namespace Sys2Proof.Machine

/-- The effective address of byte offset `k`: `m12(I + k)` (20_memory.md R52, 48_bcd_bulk.md). -/
def State.ea (s : State) (k : Nat) : Addr := m12 (s.i + BitVec.ofNat 16 k)

/-- The operand `t` of 8XY6 and 8XYE: V[X] or V[Y] (41_arith_logic.md R109, R111). -/
def State.shiftOperand (s : State) (x y : Reg) : Byte := if s.cfg.shiftReadsDest then s.reg x else s.reg y

/-- The top nibble of NNN, BNNN's register field X (30_encoding.md R72). -/
def topNibble (nnn : Addr) : Reg := (nnn.extractLsb' 8 4).toFin

/-- The register `r` of BNNN: X or 0 (43_subroutines_jumps.md R134). -/
def State.jumpReg (s : State) (nnn : Addr) : Reg := if s.cfg.jumpUsesVx then topNibble nnn else 0

/-- The low nibble of a byte: the key of EX9E and EXA1 (47_keypad.md R170), the digit of FX29 (R152). -/
def lowNibble (b : Byte) : Fin 16 := (b.extractLsb' 0 4).toFin

/-- The address of glyph `d`: `FONT_BASE + 5 * d` (45_address_register.md R152). -/
def State.glyphAddr (s : State) (d : Fin 16) : Word := BitVec.ofNat 16 (s.fb + 5 * d.val)

/-- The registers V0..VX of FX55 and FX65, ascending (48_bcd_bulk.md R181, R182). -/
def regsUpTo (x : Reg) : List Reg := (List.range (x.val + 1)).map (Fin.ofNat 16)

/-- The hundreds digit of FX33 (48_bcd_bulk.md R180). -/
def hundreds (b : Byte) : Byte := BitVec.ofNat 8 (b.toNat / 100)

/-- The tens digit of FX33. -/
def tens (b : Byte) : Byte := BitVec.ofNat 8 (b.toNat / 10 % 10)

/-- The ones digit of FX33. -/
def ones (b : Byte) : Byte := BitVec.ofNat 8 (b.toNat % 10)

/-- I after FX55 and FX65: `m12(I + X + 1)` under the switch, else I (R181, R182). -/
def State.bumpI (s : State) (x : Reg) : State :=
  if s.cfg.loadStoreInc then s.setI (zext16 (s.ea (x.val + 1))) else s

end Sys2Proof.Machine
end

