-- ==== Sys2Proof/Machine/AddressReg.lean ====
section
/-!
DEFINITION. Sys2Proof/Machine/AddressReg.lean: the address-register instructions (45_address_register.md R150 to R152).
-/
namespace Sys2Proof.Machine

/-- ANNN `LD I, NNN` (R150). -/
def execLdI (nnn : Addr) (s : State) : ExecOut := .next (s.setI (zext16 nnn))

/-- FX1E `ADD I, Vx`: masked to 12 bits; VF = overflow past 0xFFF under the switch, operands read first (R151). -/
def execAddI (x : Reg) (s : State) : ExecOut :=
  let t := s.setI (zext16 (m12 (s.i + (s.reg x).setWidth 16)))
  .next (if s.cfg.addiOverflow then t.setReg regF (flagByte (addIOverflowOf s.i (s.reg x))) else t)

/-- FX29 `LD F, Vx`: the glyph of the low nibble (R152). -/
def execLdFont (x : Reg) (s : State) : ExecOut := .next (s.setI (s.glyphAddr (lowNibble (s.reg x))))

end Sys2Proof.Machine
end

