-- ==== Sys2Proof/Machine/Arith.lean ====
section
/-!
DEFINITION. Sys2Proof/Machine/Arith.lean: register load, arithmetic, logic, shift and random (41_arith_logic.md R100 to R112).
-/
namespace Sys2Proof.Machine

/-- 6XNN `LD Vx, NN` (R101). -/
def execLdImm (x : Reg) (nn : Byte) (s : State) : ExecOut := .next (s.setReg x nn)

/-- 7XNN `ADD Vx, NN`: modulo 256, no flag (R102). -/
def execAddImm (x : Reg) (nn : Byte) (s : State) : ExecOut := .next (s.setReg x (s.reg x + nn))

/-- 8XY0 `LD Vx, Vy` (R103). -/
def execLdReg (x y : Reg) (s : State) : ExecOut := .next (s.setReg x (s.reg y))

/-- 8XY1 `OR Vx, Vy`, VF left as it was (R104). -/
def execOrReg (x y : Reg) (s : State) : ExecOut := .next (s.setReg x (s.reg x ||| s.reg y))

/-- 8XY2 `AND Vx, Vy`, VF left as it was (R105). -/
def execAndReg (x y : Reg) (s : State) : ExecOut := .next (s.setReg x (s.reg x &&& s.reg y))

/-- 8XY3 `XOR Vx, Vy`, VF left as it was (R106). -/
def execXorReg (x y : Reg) (s : State) : ExecOut := .next (s.setReg x (s.reg x ^^^ s.reg y))

/-- 8XY4 `ADD Vx, Vy`, VF = carry (R107). -/
def execAddReg (x y : Reg) (s : State) : ExecOut :=
  .next (s.setRegFlag x (s.reg x + s.reg y) (carryOf (s.reg x) (s.reg y)))

/-- 8XY5 `SUB Vx, Vy`, VF = 1 on borrow (R108). -/
def execSub (x y : Reg) (s : State) : ExecOut :=
  .next (s.setRegFlag x (s.reg x - s.reg y) (borrowOf (s.reg x) (s.reg y)))

/-- 8XY6 `SHR Vx, Vy`, VF = the bit shifted out (R109). -/
def execShr (x y : Reg) (s : State) : ExecOut :=
  .next (s.setRegFlag x (s.shiftOperand x y >>> 1) (shiftedOutRight (s.shiftOperand x y)))

/-- 8XY7 `SUBN Vx, Vy`: Vy - Vx, VF = 1 on borrow (R110). -/
def execSubn (x y : Reg) (s : State) : ExecOut :=
  .next (s.setRegFlag x (s.reg y - s.reg x) (borrowOf (s.reg y) (s.reg x)))

/-- 8XYE `SHL Vx, Vy`, VF = the bit shifted out (R111). -/
def execShl (x y : Reg) (s : State) : ExecOut :=
  .next (s.setRegFlag x (s.shiftOperand x y <<< 1) (shiftedOutLeft (s.shiftOperand x y)))

/-- CXNN `RND Vx, NN`: the byte drawn for this cycle, masked (R112). -/
def execRnd (x : Reg) (nn : Byte) (s : State) : ExecOut := .next (s.setReg x (s.input.rnd &&& nn))

end Sys2Proof.Machine
end

