-- ==== Sys2Proof/Machine/BcdBulk.lean ====
section
/-!
DEFINITION. Sys2Proof/Machine/BcdBulk.lean: BCD store and bulk register transfer (48_bcd_bulk.md R180 to R182).
-/
namespace Sys2Proof.Machine

/-- FX33 `LD B, Vx`: hundreds, tens, ones at m12(I), m12(I+1), m12(I+2) (R180). -/
def execBcd (x : Reg) (s : State) : ExecOut :=
  .next (((s.writeByte (s.ea 0) (hundreds (s.reg x))).writeByte (s.ea 1) (tens (s.reg x))).writeByte (s.ea 2)
    (ones (s.reg x)))

/-- `MemWrite(m12(I + i), 1, V[i])` for each register listed, in order, with the I and V of `s` (R181). -/
def State.storeRegs (s : State) (rs : List Reg) : State :=
  rs.foldl (fun t r => t.writeByte (s.ea r.val) (s.reg r)) s

/-- `V[i] <- MemRead(m12(I + i), 1)` for each register listed, in order, with the I and memory of `s` (R182). -/
def State.loadRegs (s : State) (rs : List Reg) : State :=
  rs.foldl (fun t r => t.setReg r (s.readByte (s.ea r.val))) s

/-- FX55 `LD [I], Vx` (R181). -/
def execStore (x : Reg) (s : State) : ExecOut := .next ((s.storeRegs (regsUpTo x)).bumpI x)

/-- FX65 `LD Vx, [I]` (R182). -/
def execLoad (x : Reg) (s : State) : ExecOut := .next ((s.loadRegs (regsUpTo x)).bumpI x)

end Sys2Proof.Machine
end

