-- ==== Sys2Proof/Machine/Jumps.lean ====
section
/-!
DEFINITION. Sys2Proof/Machine/Jumps.lean: subroutine call and return, jumps, SYS (43_subroutines_jumps.md R130 to R135).
-/
namespace Sys2Proof.Machine

/-- 2NNN `CALL NNN`: push the address after the call, jump; StackOverflow at 16 entries (R131). -/
def execCall (nnn : Addr) (s : State) : ExecOut :=
  match s.push s.pc with
  | some t => .next (t.setPc (zext16 nnn))
  | none => .next (s.raiseInHandler .stackOverflow (encodeWord (.call nnn)))

/-- 00EE `RET`: pop into pc; StackUnderflow on an empty stack (R132). -/
def execRet (s : State) : ExecOut :=
  match s.pop with
  | some (a, t) => .next (t.setPc a)
  | none => .next (s.raiseInHandler .stackUnderflow (encodeWord .ret))

/-- 1NNN `JP NNN` (R133). -/
def execJp (nnn : Addr) (s : State) : ExecOut := .next (s.setPc (zext16 nnn))

/-- BNNN `JP V0, NNN`: `NNN + V[r]`, not masked (R134). -/
def execJpOff (nnn : Addr) (s : State) : ExecOut :=
  .next (s.setPc (zext16 nnn + (s.reg (s.jumpReg nnn)).setWidth 16))

/-- 0NNN `SYS NNN`: its whole meaning is to raise UnknownInstruction (R135). -/
def execSys (nnn : Addr) (s : State) : ExecOut :=
  .next (s.raiseInHandler .unknownInstruction (encodeWord (.sys nnn)))

end Sys2Proof.Machine
end

