-- ==== Sys2Proof/Machine/Keypad.lean ====
section
/-!
DEFINITION. Sys2Proof/Machine/Keypad.lean: the keypad instructions (47_keypad.md R170 to R173) and the waiting cycle
(40_cycle.md R95).
-/
namespace Sys2Proof.Machine

/-- EX9E `SKP Vx` (R171). -/
def execSkp (x : Reg) (s : State) : ExecOut := .next (s.skipIf (s.keyDown (lowNibble (s.reg x))))

/-- EXA1 `SKNP Vx` (R172). -/
def execSknp (x : Reg) (s : State) : ExecOut := .next (s.skipIf (!s.keyDown (lowNibble (s.reg x))))

/-- FX0A `LD Vx, K`: only `wait <- some X`; the key comes in a later waiting cycle (R173). -/
def execLdKey (x : Reg) (s : State) : ExecOut := .next (s.setWait (some x))

/-- Key `k` went from released to pressed: `Kprev[k] = 0` and `K[k] = 1` (R95). -/
def State.pressed (s : State) (k : Key) : Bool := !s.kprev.getLsbD k.val && s.keyDown k

/-- `min(P)`: the lowest-numbered key that went down, if any (R95). -/
def State.firstPress (s : State) : Option Key := (List.finRange 16).find? s.pressed

/-- `WaitingCycle(r, K)` (R95): nothing is fetched and pc stays. -/
def State.waitingCycle (s : State) (r : Reg) : State :=
  match s.firstPress with
  | some k => ((s.setReg r (BitVec.ofNat 8 k.val)).setWait none).latch
  | none => s.latch

end Sys2Proof.Machine
end

