-- ==== Sys2Proof/Machine/Pixels.lean ====
section
/-!
DEFINITION. Sys2Proof/Machine/Pixels.lean: the display buffer's operations and the XOR sprite blit (46_display.md R160, R162).
-/
namespace Sys2Proof.Machine

/-- `D[y][x]`. -/
def Display.pixel (d : Display) (y : Fin 32) (x : Fin 64) : Bool := d[y][x]

/-- `D[y][x] <- D[y][x] ^ 1`. -/
def Display.flip (d : Display) (y : Fin 32) (x : Fin 64) : Display := d.set y ((d[y]).set x (!d[y][x]))

/-- The display with every pixel 0 (R161). -/
def Display.blank : Display := Vector.replicate 32 (Vector.replicate 64 false)

/-- Where the pixel or row at unreduced coordinate `p` of an axis of `size` lands: on the screen as it is; past the edge,
wrapped or clipped (R162). -/
def place (wrap : Bool) (size : Nat) (p : Nat) : Option Nat :=
  if p < size then some p else if wrap then some (p % size) else none

/-- The column a pixel of a sprite lands in. -/
def placeX (wrap : Bool) (p : Nat) : Option (Fin 64) := (place wrap 64 p).map (Fin.ofNat 64)

/-- The row a row of a sprite lands in. -/
def placeY (wrap : Bool) (p : Nat) : Option (Fin 32) := (place wrap 32 p).map (Fin.ofNat 32)

/-- The picture so far and `hit`: whether a lit pixel has been erased. -/
abbrev Blit := Display × Bool

/-- One sprite bit at (y, x): a 0 leaves the pixel alone, a 1 flips it and hits if it was lit (R162). -/
def blitBit (acc : Blit) (y : Fin 32) (x : Fin 64) (bit : Bool) : Blit :=
  if bit then (acc.1.flip y x, acc.2 || acc.1.pixel y x) else acc

/-- Column `c` of row byte `b`: bit `7 - c` (R160). -/
def spriteBit (b : Byte) (c : Nat) : Bool := b.getLsbD (7 - c)

/-- One sprite row of eight columns at row `y` (R162's inner loop). -/
def blitRow (wrap : Bool) (x0 : Nat) (y : Fin 32) (b : Byte) (acc : Blit) : Blit :=
  (List.range 8).foldl
    (fun acc c =>
      match placeX wrap (x0 + c) with
      | none => acc
      | some x => blitBit acc y x (spriteBit b c))
    acc

/-- The sprite of `n` rows whose row `r` is byte `rows r` (R162's outer loop). -/
def blitSprite (wrap : Bool) (x0 y0 n : Nat) (rows : Nat → Byte) (acc : Blit) : Blit :=
  (List.range n).foldl
    (fun acc r =>
      match placeY wrap (y0 + r) with
      | none => acc
      | some y => blitRow wrap x0 y (rows r) acc)
    acc

/-- The picture and the collision of DXYN in state `s`: corner at (V[X] mod 64, V[Y] mod 32), rows read at `m12(I + r)`. -/
def State.draw (s : State) (x y : Reg) (n : Fin 16) : Blit :=
  blitSprite s.cfg.spriteWrap ((s.reg x).toNat % 64) ((s.reg y).toNat % 32) n.val
    (fun r => s.readByte (s.ea r)) (s.display, false)

end Sys2Proof.Machine
end

