-- ==== Sys2Proof/Machine/Screen.lean ====
section
/-!
DEFINITION. Sys2Proof/Machine/Screen.lean: the display instructions (46_display.md R161, R162).
-/
namespace Sys2Proof.Machine

/-- 00E0 `CLS` (R161). -/
def execCls (s : State) : ExecOut := .next (s.setDisplay Display.blank)

/-- DXYN `DRW Vx, Vy, N`: the coordinates are read before VF is written; VF is always written (R162). -/
def execDrw (x y : Reg) (n : Fin 16) (s : State) : ExecOut :=
  .next ((s.setDisplay (s.draw x y n).1).setReg regF (flagByte (s.draw x y n).2))

end Sys2Proof.Machine
end

