-- ==== Sys2Proof/Machine/Skips.lean ====
section
/-!
DEFINITION. Sys2Proof/Machine/Skips.lean: the conditional skips on registers (42_skips.md R120 to R124).
-/
namespace Sys2Proof.Machine

/-- 3XNN `SE Vx, NN` (R121). -/
def execSeImm (x : Reg) (nn : Byte) (s : State) : ExecOut := .next (s.skipIf (s.reg x == nn))

/-- 4XNN `SNE Vx, NN` (R122). -/
def execSneImm (x : Reg) (nn : Byte) (s : State) : ExecOut := .next (s.skipIf (s.reg x != nn))

/-- 5XY0 `SE Vx, Vy` (R123). -/
def execSeReg (x y : Reg) (s : State) : ExecOut := .next (s.skipIf (s.reg x == s.reg y))

/-- 9XY0 `SNE Vx, Vy` (R124). -/
def execSneReg (x y : Reg) (s : State) : ExecOut := .next (s.skipIf (s.reg x != s.reg y))

end Sys2Proof.Machine
end

