-- ==== Sys2Proof/Machine/Timers.lean ====
section
/-!
DEFINITION. Sys2Proof/Machine/Timers.lean: timer get and set (44_timers.md R140 to R142), the tick and the tone signal
(60_exceptions.md R214, R215).
-/
namespace Sys2Proof.Machine

/-- FX07 `LD Vx, DT` (R140). -/
def execLdFromDt (x : Reg) (s : State) : ExecOut := .next (s.setReg x s.dt)

/-- FX15 `LD DT, Vx` (R141). -/
def execLdDt (x : Reg) (s : State) : ExecOut := .next (s.setDt (s.reg x))

/-- FX18 `LD ST, Vx` (R142). -/
def execLdSt (x : Reg) (s : State) : ExecOut := .next (s.setSt (s.reg x))

/-- One timer down by one, never below zero (R214). -/
def countDown (b : Byte) : Byte := if 0 < b.toNat then b - 1 else b

/-- `Tick()` (R214). -/
def State.tick (s : State) : State := (s.setDt (countDown s.dt)).setSt (countDown s.st)

/-- `tone_active = (ST > 0)` (10_state.md R27, R215). -/
def State.toneActive (s : State) : Bool := decide (0 < s.st.toNat)

end Sys2Proof.Machine
end

