-- ==== Sys2Proof/Machine/Driver.lean ====
section
/-!
DEFINITION. Sys2Proof/Machine/Driver.lean: the cycle (40_cycle.md R91 to R97) and the execution driver that interleaves cycles
and timer ticks (60_exceptions.md R217 to R220, R227).
-/
namespace Sys2Proof.Machine

/-- Step 7 of the cycle, `Kprev <- K` (R91), which a raise that halts does not reach (R97). -/
def State.endCycle (s : State) : State := if s.status = .running then s.latch else s

/-- Steps 5 to 7 on the word `w` fetched at pc: advance, decode, execute, latch; `Unknown` raises (R93, R94, R97). -/
def State.runWord (s : State) (w : Word) : ExecOut :=
  match decodeWord w with
  | .error _ => .next (s.raise .unknownInstruction s.pc (some w)).endCycle
  | .ok i =>
    match exec i s.advance with
    | .next t => .next t.endCycle
    | .fault f => .fault f
    | .refused r => .refused r

/-- `Cycle(K, rnd, shutdown)` (R91), with the priority of 60_exceptions.md R210. -/
def State.cycle (s : State) : ExecOut :=
  if s.input.shutdown then .next (s.setStatus .stopped)
  else
    match s.wait with
    | some r => .next (s.waitingCycle r)
    | none =>
      match s.fetch with
      | none => .next (s.raise .outOfBoundsAddress s.pc none)
      | some w => s.runWord w

/-- The end of a frame: one tick, `phase <- 0` (R217). Where no cycle ever runs (`CYCLES_PER_FRAME = 0`) the shutdown request
is tested before the tick (R227, D30). -/
def State.frameEnd (s : State) : State :=
  if s.cfg.cyclesPerFrame = 0 then
    if s.input.shutdown then (s.setStatus .stopped).consumeInput
    else (s.tick.setPhase 0).consumeInput
  else s.tick.setPhase 0

/-- A cycle has used its input and its slot: `phase <- phase + 1` (R217). -/
def State.endSlot (s : State) : State := (s.setPhase (s.phase + 1)).consumeInput

/-- `DriverStep()` (R217): nothing once status is not Running (R220), a cycle while the frame has slots, else the tick. -/
def State.driverStep (s : State) : ExecOut :=
  if s.status = .running then
    if s.phase < s.cfg.cyclesPerFrame then
      match s.cycle with
      | .next t => .next t.endSlot
      | .fault f => .fault f
      | .refused r => .refused r
    else .next s.frameEnd
  else .next s

end Sys2Proof.Machine
end

