-- ==== Sys2Proof/Machine/Step.lean ====
section
/-!
DEFINITION. Sys2Proof/Machine/Step.lean: one step of the block, R217's `DriverStep`, "the one step function of the whole block",
and the placing of one instruction where the very next step runs it.
-/
namespace Sys2Proof.Machine

/-- One step: a cycle or a tick, or nothing once the status is not Running (60_exceptions.md R217). -/
def step (s : State) : Host.Outcome State Fault Refusal := s.driverStep

/-- The table bits `w` stored as two bytes, high byte first, where the next cycle fetches, and all that makes the very next
step that cycle: Running, no key wait, a frame with a slot left, an input with no shutdown request, and a pc that can be
fetched from (notes/assumptions/10.md). -/
def State.withFetchWord (s : State) (nbits w : Nat) : State :=
  let word : Word := BitVec.ofNat 16 (w % 2 ^ nbits)
  let at0 : Word := if 0xFFE < s.pc.toNat then 0x200 else s.pc
  let t := { s with
    pc := at0, wait := none, status := .running,
    cfg := { s.cfg with cyclesPerFrame := s.phase + 1 },
    inputs := { s.input with shutdown := false } :: s.inputs.tail }
  (t.writeByte (m12 at0) (hiByte word)).writeByte (m12 (at0 + 1)) (loByte word)

end Sys2Proof.Machine
end

