-- ==== Sys2Proof/Machine/HostPort.lean ====
section
/-!
DEFINITION. Sys2Proof/Machine/HostPort.lean: what the outside does to the block between two steps and what it sees of it
(60_exceptions.md R221 to R227): the loader, the display snapshot, the inputs of coming cycles. The tone signal is
State.toneActive.
-/
namespace Sys2Proof.Machine

/-- The image's bytes written from address `a` on, in order (R225). -/
def State.writeImage (s : State) (a : Nat) (bytes : List Byte) : State :=
  match bytes with
  | [] => s
  | b :: bs => (s.writeByte (BitVec.ofNat 12 a) b).writeImage (a + 1) bs

/-- `load_program(bytes)` (R225): refused with ProgramTooLarge and nothing changed, or the image at 0x200 and the load reset
(10_state.md R38). -/
def State.loadProgram (s : State) (bytes : List Byte) : ExecOut :=
  if maxProgLen < bytes.length then .fault .programTooLarge
  else .next (s.writeImage progOrigin bytes).loadReset

/-- The display collaborator's snapshot: 2048 pixels, row-major, pixel (x, y) at `y * 64 + x` (R223). -/
def State.snapshot (s : State) : List Bool := (s.display.toList.map Vector.toList).flatten

/-- The inputs of the coming cycles set from outside, oldest first (R96, R222, R227). -/
def State.schedule (s : State) (xs : List CycleInput) : State := { s with inputs := xs }

end Sys2Proof.Machine
end

