-- ==== Sys2Proof/Safety.lean ====
section
/-!
DEFINITION. Sys2Proof/Safety.lean: the terms claims use: the parts of the state and what stays the same (frames), the invariant
of every step (10_state.md R40), and the situations a step can find.
-/
namespace Sys2Proof.Machine

/-! ## Parts of the state, and frames -/

/-- One observable part of the state. -/
inductive Part where
  /-- One general register (R20). -/
  | reg (x : Reg)
  /-- The address register (R22). -/
  | i
  /-- The program counter (R23). -/
  | pc
  /-- One stack entry, live or dead (R24). -/
  | entry (j : Fin 16)
  /-- The stack pointer (R25). -/
  | sp
  /-- The delay timer (R26). -/
  | dt
  /-- The sound timer (R27). -/
  | st
  /-- The byte of memory at an address, read as the model reads it (R28). -/
  | byte (a : Nat)
  /-- The whole picture (R29). -/
  | display
  /-- The awaiting-key flag (R32). -/
  | wait
  /-- The key latch (R33). -/
  | kprev
  /-- The run status (R34). -/
  | status
  /-- The frame position (R35). -/
  | phase
  /-- The configuration (R31). -/
  | cfg
  /-- The model's own schedule of inputs and its counter (R96). -/
  | inputs
  deriving DecidableEq, Repr

/-- The stack entry `j`. -/
def State.entry (s : State) (j : Fin 16) : Word := s.stack[j]

/-- The pixel `D[y][x]`. -/
def State.pixel (s : State) (y : Fin 32) (x : Fin 64) : Bool := s.display.pixel y x

/-- The part holds the same in both states. -/
def Part.same (p : Part) (s t : State) : Prop :=
  match p with
  | .reg x => t.reg x = s.reg x
  | .i => t.i = s.i
  | .pc => t.pc = s.pc
  | .entry j => t.entry j = s.entry j
  | .sp => t.sp = s.sp
  | .dt => t.dt = s.dt
  | .st => t.st = s.st
  | .byte a => t.byteAt a = s.byteAt a
  | .display => t.display = s.display
  | .wait => t.wait = s.wait
  | .kprev => t.kprev = s.kprev
  | .status => t.status = s.status
  | .phase => t.phase = s.phase
  | .cfg => t.cfg = s.cfg
  | .inputs => t.inputs = s.inputs ∧ t.drawNo = s.drawNo

/-- THE FRAME: every part of the state but the listed ones is in `t` as it was in `s`: every register, flag, byte of memory,
stack entry, timer and control register not named. -/
def KeptExcept (changed : List Part) (s t : State) : Prop := ∀ p, p ∉ changed → p.same s t

/-! ## The invariant (R40) -/

/-- The record of a halt: the faulting instruction's address is still pc, the word is the one there, and the fault is one of
the four that a cycle raises (R34, R207). -/
def State.HaltRecordTrue (s : State) : Prop :=
  ∀ f a w, s.status = .halted f a w → f ≠ .programTooLarge ∧ a = s.pc ∧ w = s.fetch

/-- What every step keeps (R40). That a register holds 0..255, that sp is at most 16 and the timers at most 255 is in their
types. -/
structure State.Inv (s : State) : Prop where
  /-- `I <= 0xFFF` (R22). -/
  i_le : s.i.toNat ≤ 0xFFF
  /-- `pc <= 0x10FE` (R23). -/
  pc_le : s.pc.toNat ≤ 0x10FE
  /-- Every live stack entry is at most 0x1000 (R131). -/
  entry_le : ∀ j : Fin 16, j.val < s.sp.val → (s.entry j).toNat ≤ 0x1000
  /-- The frame position is at most `CYCLES_PER_FRAME` (R35). -/
  phase_le : s.phase ≤ s.cfg.cyclesPerFrame
  /-- Memory is in its canonical form. -/
  mem_wf : Memory.wf s.fb s.mem
  /-- The record of a halt is true. -/
  halt_true : s.HaltRecordTrue

/-! ## What a step finds -/

/-- The next step is a cycle, and no shutdown is requested. -/
structure State.Ready (s : State) : Prop where
  /-- The driver runs. -/
  running : s.status = .running
  /-- The frame has a slot left. -/
  slot : s.phase < s.cfg.cyclesPerFrame
  /-- No shutdown is requested in this cycle's sample. -/
  noShutdown : s.input.shutdown = false

/-- The next step is a cycle that fetches the word `w`. -/
structure State.Fetches (s : State) (w : Word) : Prop where
  /-- The step is a cycle. -/
  ready : s.Ready
  /-- No key is awaited. -/
  noWait : s.wait = none
  /-- The fetch succeeds with `w`. -/
  fetched : s.fetch = some w

/-- The next step runs the instruction `i`. -/
def State.Runs (s : State) (i : Instr) : Prop := ∃ w, s.Fetches w ∧ decodeWord w = .ok i

/-- The run is safe so far: no fatal fault has halted the engine (R207). -/
def State.Safe (s : State) : Prop := ∀ f a w, s.status ≠ .halted f a w

/-- `k` steps of the whole block one after another, ending early at an outcome that is no next state. -/
def runSteps : Nat → State → ExecOut
  | 0, s => .next s
  | k + 1, s =>
    match step s with
    | .next t => runSteps k t
    | .fault f => .fault f
    | .refused r => .refused r

/-! ## The picture DXYN draws (46_display.md R160, R162), said pixel by pixel -/

/-- The unreduced coordinate `p` of an axis of `size` falls on screen coordinate `q`. -/
def Lands (wrap : Bool) (size p q : Nat) : Prop := if wrap then p % size = q else p = q

/-- A 1 bit of the sprite of `drw x y n` in state `s` falls on pixel (yy, xx). -/
def State.Covers (s : State) (x y : Reg) (n : Fin 16) (yy : Fin 32) (xx : Fin 64) : Prop :=
  ∃ r < n.val, ∃ c < 8,
    (s.readByte (s.ea r)).getLsbD (7 - c) = true ∧
    Lands s.cfg.spriteWrap 32 ((s.reg y).toNat % 32 + r) yy.val ∧
    Lands s.cfg.spriteWrap 64 ((s.reg x).toNat % 64 + c) xx.val

/-! ## Whole-machine terms -/

/-- pc and every live return address are even (R245). -/
def State.EvenPc (s : State) : Prop :=
  s.pc.toNat % 2 = 0 ∧ ∀ j : Fin 16, j.val < s.sp.val → (s.entry j).toNat % 2 = 0

end Sys2Proof.Machine

namespace Sys2Proof

/-- The instruction does not jump to an odd address in state `s` (R245). -/
def Instr.evenTarget (i : Instr) (s : Machine.State) : Prop :=
  (∀ nnn, i = .jp nnn → nnn.toNat % 2 = 0) ∧
  (∀ nnn, i = .call nnn → nnn.toNat % 2 = 0) ∧
  (∀ nnn, i = .jpOff nnn → (nnn.toNat + (s.reg (s.jumpReg nnn)).toNat) % 2 = 0)

/-- The instruction writes VF as a flag under the configuration `c`: R21's table. -/
def Instr.writesFlag (i : Instr) (c : Config) : Prop :=
  (∃ x y, i = .addReg x y ∨ i = .sub x y ∨ i = .subn x y ∨ i = .shr x y ∨ i = .shl x y) ∨
  (∃ x y n, i = .drw x y n) ∨ (c.addiOverflow = true ∧ ∃ x, i = .addI x)

/-- The instruction writes VF as its ordinary destination: its X field is 15 (R21). -/
def Instr.destIsVF (i : Instr) : Prop :=
  (∃ nn, i = .ldImm 15 nn ∨ i = .addImm 15 nn ∨ i = .rnd 15 nn) ∨
  (∃ y, i = .ldReg 15 y ∨ i = .orReg 15 y ∨ i = .andReg 15 y ∨ i = .xorReg 15 y) ∨
  i = .ldFromDt 15 ∨ i = .load 15

end Sys2Proof
end

