-- ==== Sys2Proof/Certificates/Slice0/Obligations.lean ====
section
/-!
DEFINITION. Sys2Proof/Certificates/Slice0/Obligations.lean: the statements for the provers, from the spec's numbered rules. `exec i`
runs on the state in which pc already holds pc0 + 2 (40_cycle.md R93); `step` is a whole driver step (60_exceptions.md R217). Every
statement holds for every configuration and every input.
-/

open Sys2Proof Sys2Proof.Machine

/-! ## Encoding (30_encoding.md) -/

/-- Decoding the word, or the bytes, of a well-formed instruction gives it back, every operand at every value (R74, R75). -/
def Obligations.EncodeThenDecode : Prop :=
  ∀ (i : Instr) (rest : List Byte), i.wf = true →
    decodeWord (encodeWord i) = .ok i ∧ decode (encode i ++ rest) = .ok (i, rest)

/-- The field round trip of R78: a word is its fields put together, in each of the three groupings; a word that decodes is its
row's match with the operand bits outside the mask, and encoding what was decoded gives the word. -/
def Obligations.DecodeThenEncode : Prop :=
  (∀ w : Word,
    w = ((opField w).setWidth 16 <<< 12) ||| ((BitVec.ofNat 16 (xField w).val) <<< 8) |||
      ((BitVec.ofNat 16 (yField w).val) <<< 4) ||| BitVec.ofNat 16 (nField w).val ∧
    w = ((opField w).setWidth 16 <<< 12) ||| ((BitVec.ofNat 16 (xField w).val) <<< 8) ||| (nnField w).setWidth 16 ∧
    w = ((opField w).setWidth 16 <<< 12) ||| (nnnField w).setWidth 16) ∧
  ∀ (w : Word) (i : Instr), decodeWord w = .ok i →
    i.wf = true ∧ encodeWord i = w ∧ w = (encRow i).pat ||| (w &&& ~~~(encRow i).mask)

/-- `w & mask = match` selects the row; the 0NNN row is taken only when neither 00E0 nor 00EE matches (R75). -/
def Obligations.MaskAndMatchSelectTheRow : Prop :=
  ∀ (w : Word) (i : Instr), w &&& (encRow i).mask = (encRow i).pat →
    (∀ nnn, i = .sys nnn → w ≠ 0x00E0 ∧ w ≠ 0x00EE) →
    ∃ j, decodeWord w = .ok j ∧ encRow j = encRow i

/-- The unknown words are the five spaces of R76, and SYS is every 0NNN but 00E0 and 00EE. -/
def Obligations.UnknownWordsAreTheFiveSpaces : Prop :=
  ∀ w : Word,
    (decodeWord w = .error (.unknownWord w) ↔
      (opField w = 0x5 ∧ nField w ≠ 0) ∨
      (opField w = 0x8 ∧ (nField w).val ∈ [0x8, 0x9, 0xA, 0xB, 0xC, 0xD, 0xF]) ∨
      (opField w = 0x9 ∧ nField w ≠ 0) ∨
      (opField w = 0xE ∧ (nnField w).toNat ∉ [0x9E, 0xA1]) ∨
      (opField w = 0xF ∧ (nnField w).toNat ∉ [0x07, 0x0A, 0x15, 0x18, 0x1E, 0x29, 0x33, 0x55, 0x65])) ∧
    ((∃ nnn, decodeWord w = .ok (.sys nnn)) ↔ opField w = 0x0 ∧ w ≠ 0x00E0 ∧ w ≠ 0x00EE)

/-- Words written out from R75's table decode to the instructions they stand for, one of each format and both rejects of a
class (95_test_vectors.md V-DEC). -/
def Obligations.SampleWordsDecode : Prop :=
  decodeWord 0x00E0 = .ok .cls ∧ decodeWord 0x00E1 = .ok (.sys 0x0E1) ∧ decodeWord 0x2ABC = .ok (.call 0xABC) ∧
  decodeWord 0x7A7F = .ok (.addImm 10 0x7F) ∧ decodeWord 0x8AB5 = .ok (.sub 10 11) ∧
  decodeWord 0xDAB5 = .ok (.drw 10 11 5) ∧ decodeWord 0xFA1E = .ok (.addI 10) ∧
  decodeWord 0x8ABF = .error (.unknownWord 0x8ABF) ∧ decodeWord 0xFA75 = .error (.unknownWord 0xFA75)

/-! ## The step (40_cycle.md, 60_exceptions.md) -/

/-- A step runs the decoded instruction: exec of it on the state with pc advanced by 2, then the latch where the engine still
runs, one slot of the frame and one input used (R91, R93, R94, R217). That a halting cycle uses its slot and input but not the latch
is the model's reading (notes/assumptions/7.md, 8.md). -/
def Obligations.StepRunsDecodedInstruction : Prop :=
  ∀ (s : State) (w : Word) (i : Instr), s.Fetches w → decodeWord w = .ok i →
    s.advance.pc = s.pc + 2 ∧ KeptExcept [.pc] s s.advance ∧
    (∀ f, exec i s.advance = .fault f → step s = .fault f) ∧
    (∀ r, exec i s.advance = .refused r → step s = .refused r) ∧
    ∀ t, exec i s.advance = .next t →
      ∃ u, step s = .next u ∧ KeptExcept [.kprev, .phase, .inputs] t u ∧
        u.kprev = (if t.status = .running then s.keys else s.kprev) ∧
        u.phase = s.phase + 1 ∧ u.inputs = s.inputs.tail ∧ u.drawNo = s.drawNo + 1

/-- The fetch: none above 0xFFE, else two consecutive bytes, big-endian (20_memory.md R53). That pc = 0xFFF fails
too is the spec's decision D2 (notes/assumptions/5.md). -/
def Obligations.FetchReadsBigEndianWord : Prop :=
  ∀ s : State,
    (0xFFE < s.pc.toNat → s.fetch = none) ∧
    (s.pc.toNat ≤ 0xFFE → ∃ w : Word, s.fetch = some w ∧
      w.extractLsb' 8 8 = s.byteAt s.pc.toNat ∧ w.extractLsb' 0 8 = s.byteAt (s.pc.toNat + 1))

/-- A fetch with pc above 0xFFE halts with OutOfBoundsAddress and no word, everything else as before the cycle
(R92, R201, R207). That the fetch is what faults and that every fault is precise are the spec's decisions D2 and D10; that the
slot and the input are used all the same is the model's reading (notes/assumptions/5.md, 7.md). -/
def Obligations.FetchOutOfRangeHalts : Prop :=
  ∀ s : State, s.Ready → s.wait = none → 0xFFE < s.pc.toNat →
    ∃ t, step s = .next t ∧ t.status = .halted .outOfBoundsAddress s.pc none ∧
      KeptExcept [.status, .phase, .inputs] s t

/-- A word that is unknown or SYS halts under the Fatal policy and is skipped under Skip (R204; Kprev by R97).
That SYS counts as unknown, that a fault is precise and what a skip does are the spec's decisions D7, D10, D11; the latch, the slot
and the input are the model's reading (notes/assumptions/5.md, 7.md, 8.md). -/
def Obligations.UnknownWordFollowsPolicy : Prop :=
  ∀ (s : State) (w : Word), s.Fetches w →
    ((∃ e, decodeWord w = .error e) ∨ ∃ nnn, decodeWord w = .ok (.sys nnn)) →
    ∃ t, step s = .next t ∧
      (s.cfg.unknownPolicy = .fatal →
        t.status = .halted .unknownInstruction s.pc (some w) ∧ KeptExcept [.status, .phase, .inputs] s t) ∧
      (s.cfg.unknownPolicy = .skip →
        t.pc = s.pc + 2 ∧ t.kprev = s.keys ∧ KeptExcept [.pc, .kprev, .phase, .inputs] s t)

/-- A CALL with 16 return addresses on the stack, and a RET with none, halt with their faults, the address and the word, and
leave everything else as before the cycle (R202, R203). That pc too is as before is the spec's decision D10; the record's word is
notes/assumptions/11.md, the slot and the input 7.md. -/
def Obligations.StackFaultsHalt : Prop :=
  ∀ (s : State) (w : Word), s.Fetches w →
    ((∃ nnn, decodeWord w = .ok (.call nnn)) → s.sp.val = 16 →
      ∃ t, step s = .next t ∧ t.status = .halted .stackOverflow s.pc (some w) ∧
        KeptExcept [.status, .phase, .inputs] s t) ∧
    (decodeWord w = .ok .ret → s.sp.val = 0 →
      ∃ t, step s = .next t ∧ t.status = .halted .stackUnderflow s.pc (some 0x00EE) ∧
        KeptExcept [.status, .phase, .inputs] s t)

/-- Faults are precise and have no other cause: whenever a step of a running engine halts it, the state is as before the step
but for the driver's slot and input, the record is the pc and the word there, and the fault is the one its cause names
(R97, R200 to R204, R207; the spec's decisions D2, D7, D10; notes/assumptions/4.md, 5.md, 7.md). -/
def Obligations.FaultsArePreciseAndCaused : Prop :=
  ∀ (s t : State) (f : Fault) (a : Word) (w : Option Word), s.status = .running → step s = .next t →
    t.status = .halted f a w →
    KeptExcept [.status, .phase, .inputs] s t ∧ a = s.pc ∧ w = s.fetch ∧ s.wait = none ∧
    ((f = .outOfBoundsAddress ∧ 0xFFE < s.pc.toNat) ∨
     (f = .stackOverflow ∧ s.sp.val = 16 ∧ ∃ nnn, s.Runs (.call nnn)) ∨
     (f = .stackUnderflow ∧ s.sp.val = 0 ∧ s.Runs .ret) ∨
     (f = .unknownInstruction ∧ s.cfg.unknownPolicy = .fatal ∧
       ∃ v, s.fetch = some v ∧ ((∃ e, decodeWord v = .error e) ∨ ∃ nnn, decodeWord v = .ok (.sys nnn))))

/-- A shutdown request found by a cycle, or before a tick where no cycle ever runs, stops the engine and changes nothing else,
in a key wait too (R227). The test before a tick is the spec's decision D30, and that the slot and the input are used the model's
reading (notes/assumptions/7.md, 9.md). -/
def Obligations.ShutdownStopsTheEngine : Prop :=
  ∀ s : State, s.status = .running → s.input.shutdown = true →
    (s.phase < s.cfg.cyclesPerFrame ∨ s.cfg.cyclesPerFrame = 0) →
    ∃ t, step s = .next t ∧ t.status = .stopped ∧ KeptExcept [.status, .phase, .inputs] s t

/-- Once the status is Halted or Stopped a driver step does nothing (R220; the spec's decision D24). -/
def Obligations.StoppedDriverDoesNothing : Prop :=
  ∀ s : State, s.status ≠ .running → step s = .next s

/-- Every step of every state answers a next state: no situation stops the model (R217, R74 "Decode is a total function"). -/
def Obligations.EveryStepAnswersNext : Prop :=
  ∀ s : State, ∃ t, step s = .next t

/-- No step changes the configuration (10_state.md R31). -/
def Obligations.ConfigurationIsFixed : Prop :=
  ∀ s t : State, step s = .next t → t.cfg = s.cfg

/-- The tick: both timers down by one, never below zero, the frame position back to 0, nothing else (R214, R217). The shutdown test
before a tick where no cycle ever runs is the spec's decision D30 (notes/assumptions/9.md). -/
def Obligations.TickCountsDown : Prop :=
  ∀ s : State, s.status = .running → s.cfg.cyclesPerFrame ≤ s.phase →
    (s.cfg.cyclesPerFrame = 0 → s.input.shutdown = false) →
    ∃ t, step s = .next t ∧ t.dt.toNat = s.dt.toNat - 1 ∧ t.st.toNat = s.st.toNat - 1 ∧ t.phase = 0 ∧
      KeptExcept [.dt, .st, .phase, .inputs] s t ∧ (0 < s.cfg.cyclesPerFrame → Part.inputs.same s t)

/-- A frame begun at phase 0 is `CYCLES_PER_FRAME` cycles and then exactly one tick: the phase counts the cycles, none of them
counts a timer down (DT changes only to the V[X] of an FX15, ST only to that of an FX18), and the step after the last of them is the
tick that counts both timers down and sets the phase back to 0 (R217; that cycles come first and the tick last is the spec's decision
D24; notes/assumptions/5.md). -/
def Obligations.FrameIsCyclesThenOneTick : Prop :=
  ∀ (s t : State) (k : Nat), s.phase = 0 → k ≤ s.cfg.cyclesPerFrame → runSteps k s = .next t → t.status = .running →
    t.phase = k ∧
    (∀ (j : Nat) (u v : State), j < k → runSteps j s = .next u → step u = .next v →
      (v.dt = u.dt ∨ ∃ x, u.Runs (.ldDt x) ∧ v.dt = u.reg x) ∧
      (v.st = u.st ∨ ∃ x, u.Runs (.ldSt x) ∧ v.st = u.reg x)) ∧
    (k = s.cfg.cyclesPerFrame → ∀ u, step t = .next u → u.status = .running →
      u.phase = 0 ∧ u.dt.toNat = t.dt.toNat - 1 ∧ u.st.toNat = t.st.toNat - 1)

/-! ## The key wait (40_cycle.md R95, 60_exceptions.md R219) -/

/-- The waiting cycle: the lowest-numbered key that went from released to pressed is delivered and ends the wait; without one
only the latch changes; pc stays (R95). The edge rule, the lowest key first and the slot used are the spec's decision D15. -/
def Obligations.WaitingCycleDeliversLowestPress : Prop :=
  ∀ (s : State) (r : Reg), s.Ready → s.wait = some r →
    ∃ t, step s = .next t ∧ t.kprev = s.keys ∧
      (∀ k : Key, (s.kprev.getLsbD k.val = false ∧ s.keys.getLsbD k.val = true) →
        (∀ j < k, ¬(s.kprev.getLsbD j.val = false ∧ s.keys.getLsbD j.val = true)) →
        (t.reg r).toNat = k.val ∧ t.wait = none ∧ KeptExcept [.reg r, .wait, .kprev, .phase, .inputs] s t) ∧
      ((∀ k : Key, ¬(s.kprev.getLsbD k.val = false ∧ s.keys.getLsbD k.val = true)) →
        KeptExcept [.kprev, .phase, .inputs] s t)

/-- FX0A only sets the awaiting-key flag in its own cycle (47_keypad.md R173; the flag is the spec's decision D15). -/
def Obligations.KeyWaitStarts : Prop :=
  ∀ (x : Reg) (s : State), ∃ t, exec (.ldKey x) s = .next t ∧ t.wait = some x ∧ KeptExcept [.wait] s t

/-- A key already held when FX0A executes does not end the wait (R173, 70_reset_and_hazards.md R247; the spec's decision D15). -/
def Obligations.HeldKeyDoesNotEndWait : Prop :=
  ∀ (s t : State) (x : Reg), s.Runs (.ldKey x) → step s = .next t → t.Ready → t.keys = s.keys →
    ∃ u, step t = .next u ∧ u.wait = some x ∧ KeptExcept [.kprev, .phase, .inputs] t u

/-- The driver does not stop for FX0A: a frame spent waiting without a key change is `CYCLES_PER_FRAME` waiting cycles, none where
that is 0, and one tick, after which the wait goes on (R219; the spec's decisions D15, D24, and D30 for the shutdown test where no
cycle runs). The inputs are those scheduled (notes/assumptions/3.md, 5.md, 9.md). -/
def Obligations.WaitingFrameTicksOnce : Prop :=
  ∀ (s : State) (r : Reg), s.status = .running → s.wait = some r → s.phase = 0 →
    (s.cfg.cyclesPerFrame = 0 → s.input.shutdown = false) →
    s.cfg.cyclesPerFrame ≤ s.inputs.length → (∀ x ∈ s.inputs, x.shutdown = false ∧ x.keys = s.kprev) →
    ∃ t, runSteps (s.cfg.cyclesPerFrame + 1) s = .next t ∧
      t.dt.toNat = s.dt.toNat - 1 ∧ t.st.toNat = s.st.toNat - 1 ∧ KeptExcept [.dt, .st, .inputs] s t

/-! ## Registers, arithmetic, logic (41_arith_logic.md) -/

/-- 6XNN and 8XY0: the byte, or the other register, in V[X]; nothing else changes (R101, R103). -/
def Obligations.LoadAndCopyRegister : Prop :=
  ∀ (x y : Reg) (nn : Byte) (s : State),
    (∃ t, exec (.ldImm x nn) s = .next t ∧ t.reg x = nn ∧ KeptExcept [.reg x] s t) ∧
    (∃ t, exec (.ldReg x y) s = .next t ∧ t.reg x = s.reg y ∧ KeptExcept [.reg x] s t)

/-- 7XNN, 8XY1, 8XY2, 8XY3: the sum modulo 256, or the bitwise or, and, exclusive or, in V[X]. VF is left alone unless X names it:
for the logic instructions that is the spec's decision D6, for 7XNN general knowledge (R102, R104 to R106; notes/assumptions/5.md). -/
def Obligations.AddImmediateAndLogicKeepVF : Prop :=
  ∀ (x y : Reg) (nn : Byte) (s : State),
    (∃ t, exec (.addImm x nn) s = .next t ∧ (t.reg x).toNat = ((s.reg x).toNat + nn.toNat) % 256 ∧
      KeptExcept [.reg x] s t) ∧
    (∃ t, exec (.orReg x y) s = .next t ∧
      (∀ k < 8, (t.reg x).getLsbD k = ((s.reg x).getLsbD k || (s.reg y).getLsbD k)) ∧ KeptExcept [.reg x] s t) ∧
    (∃ t, exec (.andReg x y) s = .next t ∧
      (∀ k < 8, (t.reg x).getLsbD k = ((s.reg x).getLsbD k && (s.reg y).getLsbD k)) ∧ KeptExcept [.reg x] s t) ∧
    (∃ t, exec (.xorReg x y) s = .next t ∧
      (∀ k < 8, (t.reg x).getLsbD k = ((s.reg x).getLsbD k != (s.reg y).getLsbD k)) ∧ KeptExcept [.reg x] s t)

/-- 8XY4: the sum modulo 256, VF the carry of the unbounded sum; with X = 15 VF ends holding the carry, since
the flag is written after the result: the spec's decision D5 (R107, R100; notes/assumptions/5.md). -/
def Obligations.AddSetsCarry : Prop :=
  ∀ (x y : Reg) (s : State), ∃ t, exec (.addReg x y) s = .next t ∧
    (x ≠ 15 → (t.reg x).toNat = ((s.reg x).toNat + (s.reg y).toNat) % 256) ∧
    (t.reg 15).toNat = (if (s.reg x).toNat + (s.reg y).toNat > 255 then 1 else 0) ∧
    KeptExcept [.reg x, .reg 15] s t

/-- 8XY5 and 8XY7: the difference modulo 256, VF = 1 exactly when the unbounded difference is negative; with X = 15 VF ends
holding the borrow (R108, R110). That VF = 1 means a borrow is the spec's decision D4, against the common convention
(90_conflicts.md C5), and that the flag is written after the result D5 (notes/assumptions/5.md). -/
def Obligations.SubtractSetsBorrow : Prop :=
  ∀ (x y : Reg) (s : State),
    (∃ t, exec (.sub x y) s = .next t ∧
      (x ≠ 15 → ((t.reg x).toNat : Int) = ((s.reg x).toNat - (s.reg y).toNat : Int) % 256) ∧
      (t.reg 15).toNat = (if (s.reg x).toNat < (s.reg y).toNat then 1 else 0) ∧ KeptExcept [.reg x, .reg 15] s t) ∧
    (∃ t, exec (.subn x y) s = .next t ∧
      (x ≠ 15 → ((t.reg x).toNat : Int) = ((s.reg y).toNat - (s.reg x).toNat : Int) % 256) ∧
      (t.reg 15).toNat = (if (s.reg y).toNat < (s.reg x).toNat then 1 else 0) ∧ KeptExcept [.reg x, .reg 15] s t)

/-- 8XY6 and 8XYE: V[X] or V[Y] shifted by one as the switch says, VF the bit shifted out; with X = 15 VF ends holding it
(R109, R111). That VF is the bit shifted out is general knowledge, and that the flag is written after the result the spec's
decision D5 (notes/assumptions/5.md). -/
def Obligations.ShiftsMoveOneBitToVF : Prop :=
  ∀ (x y : Reg) (s : State) (v : Byte), v = (if s.cfg.shiftReadsDest then s.reg x else s.reg y) →
    (∃ t, exec (.shr x y) s = .next t ∧ (x ≠ 15 → (t.reg x).toNat = v.toNat / 2) ∧
      (t.reg 15).toNat = v.toNat % 2 ∧ KeptExcept [.reg x, .reg 15] s t) ∧
    (∃ t, exec (.shl x y) s = .next t ∧ (x ≠ 15 → (t.reg x).toNat = v.toNat * 2 % 256) ∧
      (t.reg 15).toNat = v.toNat / 128 ∧ KeptExcept [.reg x, .reg 15] s t)

/-- CXNN: the byte drawn for this cycle, whatever it is, anded with NN; so no bit outside NN is ever set (R112). The byte is a
free value (the spec's decision D19; notes/assumptions/2.md): the statement holds for each. -/
def Obligations.RandomByteIsMasked : Prop :=
  ∀ (x : Reg) (nn : Byte) (s : State), ∃ t, exec (.rnd x nn) s = .next t ∧
    t.reg x = s.input.rnd &&& nn ∧ t.reg x &&& ~~~nn = 0 ∧ KeptExcept [.reg x] s t

/-! ## Skips, jumps, subroutines (42_skips.md, 43_subroutines_jumps.md, 47_keypad.md) -/

/-- 3XNN, 4XNN, 5XY0, 9XY0: pc goes 2 further exactly when the comparison holds; nothing else changes (R120 to R124). -/
def Obligations.RegisterSkips : Prop :=
  ∀ (x y : Reg) (nn : Byte) (s : State),
    (∃ t, exec (.seImm x nn) s = .next t ∧ t.pc = (if s.reg x = nn then s.pc + 2 else s.pc) ∧ KeptExcept [.pc] s t) ∧
    (∃ t, exec (.sneImm x nn) s = .next t ∧ t.pc = (if s.reg x ≠ nn then s.pc + 2 else s.pc) ∧ KeptExcept [.pc] s t) ∧
    (∃ t, exec (.seReg x y) s = .next t ∧ t.pc = (if s.reg x = s.reg y then s.pc + 2 else s.pc) ∧
      KeptExcept [.pc] s t) ∧
    (∃ t, exec (.sneReg x y) s = .next t ∧ t.pc = (if s.reg x ≠ s.reg y then s.pc + 2 else s.pc) ∧
      KeptExcept [.pc] s t)

/-- EX9E and EXA1: a skip on the level, in this cycle's sample, of the key that the low nibble of V[X] selects; nothing else
changes (R171, R172). That the low nibble selects is the spec's decision D16 (notes/assumptions/5.md). -/
def Obligations.KeySkips : Prop :=
  ∀ (x : Reg) (s : State) (k : Nat), k = (s.reg x).toNat % 16 →
    (∃ t, exec (.skp x) s = .next t ∧ t.pc = (if s.keys.getLsbD k = true then s.pc + 2 else s.pc) ∧
      KeptExcept [.pc] s t) ∧
    (∃ t, exec (.sknp x) s = .next t ∧ t.pc = (if s.keys.getLsbD k = false then s.pc + 2 else s.pc) ∧
      KeptExcept [.pc] s t)

/-- 1NNN: pc is NNN (R133). -/
def Obligations.JumpGoesToTarget : Prop :=
  ∀ (nnn : Addr) (s : State), ∃ t, exec (.jp nnn) s = .next t ∧ t.pc.toNat = nnn.toNat ∧ KeptExcept [.pc] s t

/-- A jump to its own address re-executes for ever: a cycle changes nothing but the latch, the slot and the input
(R133, 60_exceptions.md R232). -/
def Obligations.SelfJumpRepeats : Prop :=
  ∀ (s : State) (nnn : Addr), s.Runs (.jp nnn) → s.pc.toNat = nnn.toNat →
    ∃ t, step s = .next t ∧ KeptExcept [.kprev, .phase, .inputs] s t

/-- BNNN: pc is NNN + V[r], r the embedded X or 0 as the switch says, not masked (R134; not masked is the spec's decision D1). -/
def Obligations.OffsetJumpIsNotMasked : Prop :=
  ∀ (nnn : Addr) (s : State), ∃ r : Reg, r.val = (if s.cfg.jumpUsesVx then nnn.toNat / 256 else 0) ∧
    ∃ t, exec (.jpOff nnn) s = .next t ∧ t.pc.toNat = nnn.toNat + (s.reg r).toNat ∧ KeptExcept [.pc] s t

/-- 2NNN below capacity pushes the address after the call and jumps; at capacity it raises StackOverflow with pc put back and
nothing else changed (R131). That pc is put back is the spec's decision D10, the record's word notes/assumptions/11.md. -/
def Obligations.CallPushesOrOverflows : Prop :=
  ∀ (nnn : Addr) (s : State),
    (∀ h : s.sp.val < 16, ∃ t, exec (.call nnn) s = .next t ∧ t.entry ⟨s.sp.val, h⟩ = s.pc ∧
      t.sp.val = s.sp.val + 1 ∧ t.pc.toNat = nnn.toNat ∧ KeptExcept [.entry ⟨s.sp.val, h⟩, .sp, .pc] s t) ∧
    (s.sp.val = 16 → ∃ t, exec (.call nnn) s = .next t ∧ t.pc = s.pc - 2 ∧
      (∃ w, t.status = .halted .stackOverflow (s.pc - 2) (some w) ∧ w.toNat = 0x2000 + nnn.toNat) ∧
      KeptExcept [.pc, .status] s t)

/-- 00EE above empty pops into pc; on an empty stack it raises StackUnderflow with pc put back and nothing else changed
(R132). That pc is put back is the spec's decision D10, the record's word notes/assumptions/11.md. -/
def Obligations.ReturnPopsOrUnderflows : Prop :=
  ∀ s : State,
    (∀ h : 0 < s.sp.val, ∃ t, exec .ret s = .next t ∧ t.pc = s.entry ⟨s.sp.val - 1, by omega⟩ ∧
      t.sp.val = s.sp.val - 1 ∧ KeptExcept [.sp, .pc] s t) ∧
    (s.sp.val = 0 → ∃ t, exec .ret s = .next t ∧ t.pc = s.pc - 2 ∧
      t.status = .halted .stackUnderflow (s.pc - 2) (some 0x00EE) ∧ KeptExcept [.pc, .status] s t)

/-- A call followed at once by a return restores pc to the instruction after the call, at any depth up to the capacity, and
leaves everything but a dead stack entry as it was (R132, 95_test_vectors.md E6). -/
def Obligations.CallThenReturnRestores : Prop :=
  ∀ (nnn : Addr) (s t : State) (p : Word) (h : s.sp.val < 16), exec (.call nnn) s = .next t →
    ∃ u, exec .ret (t.setPc p) = .next u ∧ KeptExcept [.entry ⟨s.sp.val, h⟩] s u

/-- 0NNN: its whole meaning is to raise UnknownInstruction: a halt with pc put back under Fatal, passed over under Skip
(R135). The word 0x0000 is SYS 0x000. The whole meaning is the spec's decisions D7, D10, D11. -/
def Obligations.SysRaisesUnknownInstruction : Prop :=
  decodeWord 0x0000 = .ok (.sys 0x000) ∧
  ∀ (nnn : Addr) (s : State), ∃ t, exec (.sys nnn) s = .next t ∧
    (s.cfg.unknownPolicy = .fatal → t.pc = s.pc - 2 ∧
      (∃ w, t.status = .halted .unknownInstruction (s.pc - 2) (some w) ∧ w.toNat = nnn.toNat) ∧
      KeptExcept [.pc, .status] s t) ∧
    (s.cfg.unknownPolicy = .skip → KeptExcept [] s t)

/-- pc stays even as long as the program jumps to even addresses (70_reset_and_hazards.md R245, 90_conflicts.md C6; the
spec's decision D3). -/
def Obligations.EvenTargetsKeepPcEven : Prop :=
  ∀ s t : State, s.EvenPc → (∀ i, s.Runs i → i.evenTarget s) → step s = .next t → t.EvenPc

/-! ## Timers and the address register (44_timers.md, 45_address_register.md) -/

/-- FX07, FX15, FX18: the moves between V[X] and the timers; the tone follows ST at once (R140, R141, R142). -/
def Obligations.TimerTransfers : Prop :=
  ∀ (x : Reg) (s : State),
    (∃ t, exec (.ldFromDt x) s = .next t ∧ t.reg x = s.dt ∧ KeptExcept [.reg x] s t) ∧
    (∃ t, exec (.ldDt x) s = .next t ∧ t.dt = s.reg x ∧ KeptExcept [.dt] s t) ∧
    (∃ t, exec (.ldSt x) s = .next t ∧ t.st = s.reg x ∧ (t.toneActive = true ↔ s.reg x ≠ 0) ∧ KeptExcept [.st] s t)

/-- The delay timer never changes but by FX15 or by a tick, which takes it down by one (R214, 70_reset_and_hazards.md R246). -/
def Obligations.DelayTimerMovesOnlyByTickOrFX15 : Prop :=
  ∀ s t : State, step s = .next t → t.dt ≠ s.dt →
    (s.cfg.cyclesPerFrame ≤ s.phase ∧ t.dt.toNat + 1 = s.dt.toNat) ∨ ∃ x, s.Runs (.ldDt x) ∧ t.dt = s.reg x

/-- The tone turns on only in the cycle of an FX18 that writes a non-zero value, and off only there or at the tick that takes
ST from 1 to 0 (R215). -/
def Obligations.ToneChangesOnlyByTickOrFX18 : Prop :=
  ∀ s t : State, step s = .next t → t.toneActive ≠ s.toneActive →
    (s.cfg.cyclesPerFrame ≤ s.phase ∧ s.st.toNat = 1 ∧ t.st.toNat = 0) ∨
      ∃ x, s.Runs (.ldSt x) ∧ t.st = s.reg x

/-- ANNN: I is the 12-bit immediate, zero-extended; nothing else changes (R150). -/
def Obligations.AddressImmediateLoad : Prop :=
  ∀ (nnn : Addr) (s : State), ∃ t, exec (.ldI nnn) s = .next t ∧ t.i.toNat = nnn.toNat ∧ KeptExcept [.i] s t

/-- FX29: I is the address of the glyph that the low nibble of V[X] selects, below 0x200; nothing else changes (R152). That only
the low nibble counts is the spec's decision D17 (notes/assumptions/5.md). -/
def Obligations.FontAddressOfLowNibble : Prop :=
  ∀ (x : Reg) (s : State), ∃ t, exec (.ldFont x) s = .next t ∧
    t.i.toNat = s.cfg.fontBase.val + 5 * ((s.reg x).toNat % 16) ∧ t.i.toNat < 0x200 ∧ KeptExcept [.i] s t

/-- FX1E: I + V[X] masked to 12 bits; under the switch VF is the overflow past 0xFFF of the unbounded sum, else VF is not
written (R151). The mask, the operand read before VF is written and what overflow means are the spec's decisions D1, D5 and D32
(notes/assumptions/5.md). -/
def Obligations.AddToAddressRegister : Prop :=
  ∀ (x : Reg) (s : State), ∃ t, exec (.addI x) s = .next t ∧
    t.i.toNat = (s.i.toNat + (s.reg x).toNat) % 4096 ∧
    (s.cfg.addiOverflow = true →
      (t.reg 15).toNat = (if s.i.toNat + (s.reg x).toNat > 0xFFF then 1 else 0) ∧ KeptExcept [.i, .reg 15] s t) ∧
    (s.cfg.addiOverflow = false → KeptExcept [.i] s t)

/-! ## The display (46_display.md) -/

/-- 00E0: every pixel 0, nothing else changed (R161). -/
def Obligations.ClearBlanksTheScreen : Prop :=
  ∀ s : State, ∃ t, exec .cls s = .next t ∧ (∀ y x, t.pixel y x = false) ∧ KeptExcept [.display] s t

/-- DXYN, pixel by pixel: a pixel is inverted exactly when a 1 bit of the sprite falls on it, and VF is 1 exactly when such a
pixel was lit; nothing else changes (R160, R162). The sprite format is general knowledge, the rows' wrapped
addresses are the spec's decision D1, the old VF as a coordinate D5, the reduced corner and VF = 0 without a hit D18
(notes/assumptions/5.md). -/
def Obligations.DrawInvertsCoveredPixels : Prop :=
  ∀ (x y : Reg) (n : Fin 16) (s : State), ∃ t, exec (.drw x y n) s = .next t ∧
    (∀ yy xx, (s.Covers x y n yy xx → t.pixel yy xx = !s.pixel yy xx) ∧
      (¬ s.Covers x y n yy xx → t.pixel yy xx = s.pixel yy xx)) ∧
    ((∃ yy xx, s.Covers x y n yy xx ∧ s.pixel yy xx = true) → (t.reg 15).toNat = 1) ∧
    ((¬∃ yy xx, s.Covers x y n yy xx ∧ s.pixel yy xx = true) → (t.reg 15).toNat = 0) ∧
    KeptExcept [.display, .reg 15] s t

/-- Drawing the same sprite at the same location twice restores the picture, and the second draw sets VF exactly when the first
left a pixel lit under a 1 bit (R162, 95_test_vectors.md E5, 90_conflicts.md C2; the spec's decisions D1, D18;
notes/assumptions/5.md). -/
def Obligations.DrawingTwiceRestores : Prop :=
  ∀ (x y : Reg) (n : Fin 16) (s t : State), x ≠ 15 → y ≠ 15 → exec (.drw x y n) s = .next t →
    ∃ u, exec (.drw x y n) t = .next u ∧ u.display = s.display ∧
      ((u.reg 15).toNat = 1 ↔ ∃ yy xx, s.Covers x y n yy xx ∧ t.pixel yy xx = true)

/-- The display collaborator's snapshot has 2048 elements, row-major: pixel (x, y) is element y * 64 + x (R223). -/
def Obligations.SnapshotIsRowMajor : Prop :=
  ∀ s : State, s.snapshot.length = 2048 ∧
    ∀ (y : Fin 32) (x : Fin 64), s.snapshot[y.val * 64 + x.val]? = some (s.pixel y x)

/-! ## Memory transfers (48_bcd_bulk.md) -/

/-- FX33: hundreds, tens, ones of V[X] at m12(I), m12(I+1), m12(I+2); no other byte, no register, not I (R180). That the
addresses wrap is the spec's decision D1, and the digit order is general knowledge (G2; notes/assumptions/5.md). -/
def Obligations.BcdStoresThreeDigits : Prop :=
  ∀ (x : Reg) (s : State), (∀ k < 3, (s.ea k).toNat = (s.i.toNat + k) % 4096) ∧
    ∃ t, exec (.bcd x) s = .next t ∧
      (t.byteAt (s.ea 0).toNat).toNat = (s.reg x).toNat / 100 ∧
      (t.byteAt (s.ea 1).toNat).toNat = (s.reg x).toNat / 10 % 10 ∧
      (t.byteAt (s.ea 2).toNat).toNat = (s.reg x).toNat % 10 ∧
      KeptExcept [.byte (s.ea 0).toNat, .byte (s.ea 1).toNat, .byte (s.ea 2).toNat] s t

/-- FX55: V0..VX at m12(I)..m12(I+X), with the I of before; I advanced by X+1 under the switch, else kept; no other byte and no
register changed (R181). That the addresses wrap is the spec's decision D1; the range V0 to VX and the increment X + 1 are general
knowledge (G2; notes/assumptions/5.md). -/
def Obligations.BulkStoreWritesRange : Prop :=
  ∀ (x : Reg) (s : State), (∀ k < 17, (s.ea k).toNat = (s.i.toNat + k) % 4096) ∧
    ∃ t, exec (.store x) s = .next t ∧
      (∀ r ≤ x, t.byteAt (s.ea r.val).toNat = s.reg r) ∧
      (s.cfg.loadStoreInc = true → t.i.toNat = (s.i.toNat + x.val + 1) % 4096) ∧
      (s.cfg.loadStoreInc = false → t.i = s.i) ∧
      KeptExcept (.i :: (regsUpTo x).map (fun r => .byte (s.ea r.val).toNat)) s t

/-- FX65: V0..VX from m12(I)..m12(I+X); I advanced by X+1 under the switch, else kept; memory and every other register kept
(R182). That the addresses wrap is the spec's decision D1; the range V0 to VX and the increment X + 1 are general knowledge (G2;
notes/assumptions/5.md). -/
def Obligations.BulkLoadReadsRange : Prop :=
  ∀ (x : Reg) (s : State), (∀ k < 17, (s.ea k).toNat = (s.i.toNat + k) % 4096) ∧
    ∃ t, exec (.load x) s = .next t ∧
      (∀ r ≤ x, t.reg r = s.byteAt (s.ea r.val).toNat) ∧
      (s.cfg.loadStoreInc = true → t.i.toNat = (s.i.toNat + x.val + 1) % 4096) ∧
      (s.cfg.loadStoreInc = false → t.i = s.i) ∧
      KeptExcept (.i :: (regsUpTo x).map .reg) s t

/-- What FX55 stored FX65 brings back: from any later state with the same memory and the I of before the store, V0..VX are
restored (R181, R182, the round trip of 95_test_vectors.md). That the addresses wrap is the spec's decision D1 (notes/assumptions/5.md). -/
def Obligations.StoreThenLoadRestores : Prop :=
  ∀ (x : Reg) (s t u : State), exec (.store x) s = .next t → u.mem = t.mem → u.cfg = s.cfg → u.i = s.i →
    ∃ v, exec (.load x) u = .next v ∧ ∀ r ≤ x, v.reg r = s.reg r

/-- A store into the instruction stream is seen by the very next fetch (20_memory.md R65; the addresses stored to wrap by the
spec's decision D1; notes/assumptions/5.md). -/
def Obligations.StoredCodeIsFetchedNext : Prop :=
  ∀ (s t : State) (x j k : Reg), k.val = j.val + 1 → k ≤ x → s.pc.toNat = (s.ea j.val).toNat → s.pc.toNat ≤ 0xFFE →
    exec (.store x) s = .next t → t.fetch = some (s.reg j ++ s.reg k)

/-! ## Who may change what (whole-machine rules) -/

/-- Memory changes only by FX33 and FX55, and only in the bytes they store to (20_memory.md R62), at addresses that wrap by
the spec's decision D1 (notes/assumptions/5.md). -/
def Obligations.MemoryChangesOnlyByStores : Prop :=
  ∀ (s t : State) (a : Nat), step s = .next t → t.byteAt a ≠ s.byteAt a →
    (∃ x, s.Runs (.bcd x) ∧ ∃ k < 3, a = (s.ea k).toNat) ∨
      ∃ x, s.Runs (.store x) ∧ ∃ r ≤ x, a = (s.ea r.val).toNat

/-- VF changes only by the flag writers of R21's table, by an instruction whose X field is 15, or by a key delivered to it. -/
def Obligations.FlagChangesOnlyByItsWriters : Prop :=
  ∀ s t : State, step s = .next t → t.reg 15 ≠ s.reg 15 →
    (∃ i, s.Runs i ∧ (i.writesFlag s.cfg ∨ i.destIsVF)) ∨ s.wait = some 15

/-- The picture changes only by 00E0 and DXYN; the stack and its pointer only by 2NNN and 00EE; I only by ANNN, FX1E, FX29,
FX55 and FX65 (10_state.md R22, R24, R29). -/
def Obligations.ScreenStackAndAddressWriters : Prop :=
  ∀ s t : State, step s = .next t →
    (t.display ≠ s.display → s.Runs .cls ∨ ∃ x y n, s.Runs (.drw x y n)) ∧
    (t.sp ≠ s.sp ∨ (∃ j, t.entry j ≠ s.entry j) → s.Runs .ret ∨ ∃ nnn, s.Runs (.call nnn)) ∧
    (t.i ≠ s.i → (∃ nnn, s.Runs (.ldI nnn)) ∨ ∃ x, s.Runs (.addI x) ∨ s.Runs (.ldFont x) ∨ s.Runs (.store x) ∨
      s.Runs (.load x))

/-! ## Reset, load, invariant (10_state.md) -/

/-- The values after power-on, whatever configuration is supplied: R37's table, the font bytes among them. The stack's entries,
memory outside the font, the latch, the status and the phase are the spec's decisions D26, D12, D15, D10, D24 (notes/assumptions/5.md,
6.md). -/
def Obligations.PowerOnValues : Prop :=
  ∀ (c : Config) (s : State), s = State.powerOn c →
    (∀ x, s.reg x = 0) ∧ s.i = 0 ∧ s.pc = 0x200 ∧ s.sp = 0 ∧ (∀ j, s.entry j = 0) ∧ s.dt = 0 ∧ s.st = 0 ∧
    s.toneActive = false ∧ (∀ y x, s.pixel y x = false) ∧ s.wait = none ∧ s.kprev = 0 ∧ s.status = .running ∧
    s.phase = 0 ∧ s.cfg = c ∧
    (∀ k < 80, s.byteAt (c.fontBase.val + k) =
      (([0xF0, 0x90, 0x90, 0x90, 0xF0, 0x20, 0x60, 0x20, 0x20, 0x70, 0xF0, 0x10, 0xF0, 0x80, 0xF0,
         0xF0, 0x10, 0xF0, 0x10, 0xF0, 0x90, 0x90, 0xF0, 0x10, 0x10] ++
        [0xF0, 0x80, 0xF0, 0x10, 0xF0, 0xF0, 0x80, 0xF0, 0x90, 0xF0, 0xF0, 0x10, 0x20, 0x40, 0x40,
         0xF0, 0x90, 0xF0, 0x90, 0xF0, 0xF0, 0x90, 0xF0, 0x10, 0xF0] ++
        [0xF0, 0x90, 0xF0, 0x90, 0x90, 0xE0, 0x90, 0xE0, 0x90, 0xE0, 0xF0, 0x80, 0x80, 0x80, 0xF0,
         0xE0, 0x90, 0x90, 0x90, 0xE0, 0xF0, 0x80, 0xF0, 0x80, 0xF0, 0xF0, 0x80, 0xF0, 0x80, 0x80]
        : List Byte)).getD k 0) ∧
    ∀ a, ¬(c.fontBase.val ≤ a ∧ a < c.fontBase.val + 80) → s.byteAt a = 0

/-- The invariant holds after power-on, whatever configuration is supplied (R40). -/
def Obligations.PowerOnMeetsInvariant : Prop := ∀ c : Config, (State.powerOn c).Inv

/-- Every step keeps the invariant: I within 12 bits, pc at most 0x10FE, live return addresses at most 0x1000, the frame
position within the frame, memory canonical, the record of a halt true (R22, R23, R34, R35, R40; bounds that the spec
derives from its rules; notes/assumptions/4.md). -/
def Obligations.StepKeepsInvariant : Prop := ∀ s t : State, s.Inv → step s = .next t → t.Inv

/-- A load of at most 3584 bytes: the image at 0x200, every other byte as it was, the load reset, the display kept; the
invariant holds after it where it held before (60_exceptions.md R225, R38). What is reset beyond D0's list, and that the display and
the rest of memory stay, is the spec's decision D14. -/
def Obligations.LoadPlacesImageAndResets : Prop :=
  ∀ (s : State) (bytes : List Byte), bytes.length ≤ 3584 → ∃ t, s.loadProgram bytes = .next t ∧
    (∀ (k : Nat) (h : k < bytes.length), t.byteAt (0x200 + k) = bytes[k]) ∧
    (∀ a, ¬(0x200 ≤ a ∧ a < 0x200 + bytes.length) → t.byteAt a = s.byteAt a) ∧
    (∀ x, t.reg x = 0) ∧ t.i = 0 ∧ t.pc = 0x200 ∧ t.sp = 0 ∧ t.dt = 0 ∧ t.st = 0 ∧ t.wait = none ∧ t.kprev = 0 ∧
    t.status = .running ∧ t.phase = 0 ∧ t.display = s.display ∧ t.cfg = s.cfg ∧ (s.Inv → t.Inv)

/-- ProgramTooLarge is the answer of exactly the loads of more than 3584 bytes, which give no state, so nothing has changed. No
instruction and no step raises it: neither as an outcome nor by recording it, since from a state whose status does not record it
(a running one among them) no instruction and no step leads to a status that does (R205). -/
def Obligations.OversizedLoadIsRefused : Prop :=
  (∀ (s : State) (bytes : List Byte), s.loadProgram bytes = .fault .programTooLarge ↔ bytes.length > 3584) ∧
  (∀ s : State, (∀ i, exec i s ≠ .fault .programTooLarge) ∧ step s ≠ .fault .programTooLarge) ∧
  ∀ s t : State, (∀ a w, s.status ≠ .halted .programTooLarge a w) →
    ((∃ i, exec i s = .next t) ∨ step s = .next t) → ∀ a w, t.status ≠ .halted .programTooLarge a w
end

