-- ==== Sys2Proof/Laws/Encoding.lean ====
section
/-!
SUPPORT. Sys2Proof/Laws/Encoding.lean: the fields of a composed word, and a word put together again from its fields
(30_encoding.md R71, R78). Fields and words are compared as numbers.
-/
namespace Sys2Proof

/-! ## Fields as numbers -/

theorem opField_toNat (w : Word) : (opField w).toNat = w.toNat / 4096 % 16 := by
  simp [opField, Nat.shiftRight_eq_div_pow]

theorem xField_val (w : Word) : (xField w).val = w.toNat / 256 % 16 := by
  simp [xField, Nat.shiftRight_eq_div_pow]

theorem yField_val (w : Word) : (yField w).val = w.toNat / 16 % 16 := by
  simp [yField, Nat.shiftRight_eq_div_pow]

theorem nField_val (w : Word) : (nField w).val = w.toNat % 16 := by
  simp [nField]

theorem nnField_toNat (w : Word) : (nnField w).toNat = w.toNat % 256 := by
  simp [nnField]

theorem nnnField_toNat (w : Word) : (nnnField w).toNat = w.toNat % 4096 := by
  simp [nnnField]

theorem hiByte_toNat (w : Word) : (hiByte w).toNat = w.toNat / 256 % 256 := by
  simp [hiByte, Nat.shiftRight_eq_div_pow]

theorem loByte_toNat (w : Word) : (loByte w).toNat = w.toNat % 256 := by
  simp [loByte]

/-! ## Words as numbers -/

theorem append_toNat {n m : Nat} (a : BitVec n) (b : BitVec m) : (a ++ b).toNat = a.toNat * 2 ^ m + b.toNat := by
  rw [BitVec.toNat_append, ← Nat.shiftLeft_add_eq_or_of_lt b.isLt, Nat.shiftLeft_eq]

theorem nibble_toNat (x : Fin 16) : (nibble x).toNat = x.val := rfl

theorem wordA_toNat (op : BitVec 4) (a : Addr) : (wordA op a).toNat = op.toNat * 4096 + a.toNat :=
  append_toNat op a

theorem wordXI_toNat (op : BitVec 4) (x : Reg) (nn : Byte) :
    (wordXI op x nn).toNat = op.toNat * 4096 + x.val * 256 + nn.toNat := by
  show ((op ++ nibble x) ++ nn).toNat = _
  rw [append_toNat, append_toNat, nibble_toNat]; omega

theorem wordXY_toNat (op : BitVec 4) (x y : Reg) (n : Fin 16) :
    (wordXY op x y n).toNat = op.toNat * 4096 + x.val * 256 + y.val * 16 + n.val := by
  show (((op ++ nibble x) ++ nibble y) ++ nibble n).toNat = _
  rw [append_toNat, append_toNat, append_toNat, nibble_toNat, nibble_toNat, nibble_toNat]; omega

/-! ## Words bit by bit -/

theorem wordA_bit (op : BitVec 4) (a : Addr) (k : Nat) :
    (wordA op a).getLsbD k = if k < 12 then a.getLsbD k else op.getLsbD (k - 12) :=
  BitVec.getLsbD_append

theorem wordXI_bit (op : BitVec 4) (x : Reg) (nn : Byte) (k : Nat) :
    (wordXI op x nn).getLsbD k =
      if k < 8 then nn.getLsbD k else if k - 8 < 4 then (nibble x).getLsbD (k - 8) else op.getLsbD (k - 8 - 4) := by
  show ((op ++ nibble x) ++ nn).getLsbD k = _
  rw [BitVec.getLsbD_append, BitVec.getLsbD_append]

theorem wordXY_bit (op : BitVec 4) (x y : Reg) (n : Fin 16) (k : Nat) :
    (wordXY op x y n).getLsbD k =
      if k < 4 then (nibble n).getLsbD k
      else if k - 4 < 4 then (nibble y).getLsbD (k - 4)
      else if k - 4 - 4 < 4 then (nibble x).getLsbD (k - 4 - 4) else op.getLsbD (k - 4 - 4 - 4) := by
  show (((op ++ nibble x) ++ nibble y) ++ nibble n).getLsbD k = _
  rw [BitVec.getLsbD_append, BitVec.getLsbD_append, BitVec.getLsbD_append]

/-! ## The fields of a composed word -/

@[simp] theorem opField_wordA (op : BitVec 4) (a : Addr) : opField (wordA op a) = op := by
  apply BitVec.eq_of_toNat_eq; rw [opField_toNat, wordA_toNat]; omega

@[simp] theorem nnnField_wordA (op : BitVec 4) (a : Addr) : nnnField (wordA op a) = a := by
  apply BitVec.eq_of_toNat_eq; rw [nnnField_toNat, wordA_toNat]; omega

@[simp] theorem opField_wordXI (op : BitVec 4) (x : Reg) (nn : Byte) : opField (wordXI op x nn) = op := by
  apply BitVec.eq_of_toNat_eq; rw [opField_toNat, wordXI_toNat]; omega

@[simp] theorem xField_wordXI (op : BitVec 4) (x : Reg) (nn : Byte) : xField (wordXI op x nn) = x := by
  apply Fin.ext; rw [xField_val, wordXI_toNat]; omega

@[simp] theorem nnField_wordXI (op : BitVec 4) (x : Reg) (nn : Byte) : nnField (wordXI op x nn) = nn := by
  apply BitVec.eq_of_toNat_eq; rw [nnField_toNat, wordXI_toNat]; omega

@[simp] theorem opField_wordXY (op : BitVec 4) (x y : Reg) (n : Fin 16) : opField (wordXY op x y n) = op := by
  apply BitVec.eq_of_toNat_eq; rw [opField_toNat, wordXY_toNat]; omega

@[simp] theorem xField_wordXY (op : BitVec 4) (x y : Reg) (n : Fin 16) : xField (wordXY op x y n) = x := by
  apply Fin.ext; rw [xField_val, wordXY_toNat]; omega

@[simp] theorem yField_wordXY (op : BitVec 4) (x y : Reg) (n : Fin 16) : yField (wordXY op x y n) = y := by
  apply Fin.ext; rw [yField_val, wordXY_toNat]; omega

@[simp] theorem nField_wordXY (op : BitVec 4) (x y : Reg) (n : Fin 16) : nField (wordXY op x y n) = n := by
  apply Fin.ext; rw [nField_val, wordXY_toNat]; omega

/-! ## A word from its fields (R78) -/

theorem wordA_fields (w : Word) : wordA (opField w) (nnnField w) = w := by
  apply BitVec.eq_of_toNat_eq; rw [wordA_toNat, opField_toNat, nnnField_toNat]; omega

theorem wordXI_fields (w : Word) : wordXI (opField w) (xField w) (nnField w) = w := by
  apply BitVec.eq_of_toNat_eq; rw [wordXI_toNat, opField_toNat, xField_val, nnField_toNat]; omega

theorem wordXY_fields (w : Word) : wordXY (opField w) (xField w) (yField w) (nField w) = w := by
  apply BitVec.eq_of_toNat_eq; rw [wordXY_toNat, opField_toNat, xField_val, yField_val, nField_val]; omega

/-- The two bytes of a word, joined high byte first, are the word (R53, R70). -/
theorem hiByte_append_loByte (w : Word) : (hiByte w ++ loByte w : Word) = w := by
  apply BitVec.eq_of_toNat_eq
  rw [show (hiByte w ++ loByte w : Word).toNat = _ from append_toNat _ _, hiByte_toNat, loByte_toNat]; omega

end Sys2Proof
end

