-- ==== Sys2Proof/Laws/Memory.lean ====
section
/-!
SUPPORT. Sys2Proof/Laws/Memory.lean: the laws of main memory (20_memory.md R57): a read after a write, the canonical form kept
by every operation, and equal reads from equal data.
-/
namespace Sys2Proof.Machine

theorem Memory.read_nil (fb a : Nat) : Memory.read fb [] a = unlisted fb a := rfl

theorem Memory.read_cons (fb b a : Nat) (u : Byte) (m : Memory) :
    Memory.read fb ((b, u) :: m) a = if a = b then u else Memory.read fb m a := rfl

/-- An address that no entry lists reads as its power-on content. -/
theorem Memory.read_unlisted (fb a : Nat) (m : Memory) (h : ∀ c ∈ m, c.1 ≠ a) :
    Memory.read fb m a = unlisted fb a := by
  induction m with
  | nil => rfl
  | cons c m ih =>
    obtain ⟨b, u⟩ := c
    have hb : a ≠ b := fun e => h (b, u) (by simp) e.symm
    rw [Memory.read_cons, if_neg hb]
    exact ih fun c hc => h c (by simp [hc])

theorem Memory.read_drop (a c : Nat) (fb : Nat) (m : Memory) :
    Memory.read fb (Memory.drop m a) c = if c = a then unlisted fb c else Memory.read fb m c := by
  induction m with
  | nil => simp [Memory.drop, Memory.read_nil]
  | cons x m ih =>
    obtain ⟨b, u⟩ := x
    by_cases hb : b = a
    · have : Memory.drop ((b, u) :: m) a = Memory.drop m a := by simp [Memory.drop, hb]
      rw [this, ih]
      split
      · rfl
      · next hc => rw [Memory.read_cons, if_neg (by omega)]
    · have : Memory.drop ((b, u) :: m) a = (b, u) :: Memory.drop m a := by simp [Memory.drop, hb]
      rw [this, Memory.read_cons, ih, Memory.read_cons]
      split
      · next hc => rw [if_neg (by omega)]
      · rfl

theorem Memory.read_insert (fb a c : Nat) (u : Byte) (m : Memory) (h : ∀ x ∈ m, x.1 ≠ a) :
    Memory.read fb (Memory.insert m a u) c = if c = a then u else Memory.read fb m c := by
  induction m with
  | nil => rfl
  | cons x m ih =>
    obtain ⟨b, y⟩ := x
    have hb : b ≠ a := h (b, y) (by simp)
    unfold Memory.insert
    split
    · rfl
    · rw [Memory.read_cons, ih fun x hx => h x (by simp [hx]), Memory.read_cons]
      split
      · next hc => rw [if_neg (by omega)]
      · rfl

theorem Memory.mem_drop {a : Nat} {m : Memory} {c : Host.Cell} (h : c ∈ Memory.drop m a) : c ∈ m ∧ c.1 ≠ a := by
  simpa [Memory.drop] using h

/-- A read after a write: the byte written at its address, what was there before everywhere else (R57). -/
theorem Memory.read_write (fb a c : Nat) (u : Byte) (m : Memory) :
    Memory.read fb (Memory.write fb m a u) c = if c = a then u else Memory.read fb m c := by
  unfold Memory.write
  split
  · next hu =>
    rw [Memory.read_drop]
    split
    · next hc => subst hc; exact hu.symm
    · rfl
  · rw [Memory.read_insert fb a c u _ fun x hx => (Memory.mem_drop hx).2, Memory.read_drop]
    split <;> rfl

theorem Memory.mem_insert {a : Nat} {u : Byte} {m : Memory} {c : Host.Cell} (h : c ∈ Memory.insert m a u) :
    c = (a, u) ∨ c ∈ m := by
  induction m with
  | nil => exact .inl (by simpa [Memory.insert] using h)
  | cons x m ih =>
    obtain ⟨b, y⟩ := x
    unfold Memory.insert at h
    split at h
    · simpa using h
    · rcases List.mem_cons.1 h with rfl | h
      · exact .inr (by simp)
      · exact (ih h).imp_right fun h => List.mem_cons_of_mem _ h

theorem Memory.insert_sorted (a : Nat) (u : Byte) (m : Memory) (hs : m.Pairwise (fun c d => c.1 < d.1))
    (hne : ∀ x ∈ m, x.1 ≠ a) : (Memory.insert m a u).Pairwise (fun c d => c.1 < d.1) := by
  induction m with
  | nil => simp [Memory.insert]
  | cons x m ih =>
    obtain ⟨b, y⟩ := x
    obtain ⟨hb, hm⟩ := List.pairwise_cons.1 hs
    have hba : b ≠ a := hne (b, y) (by simp)
    unfold Memory.insert
    split
    · next hlt =>
      refine List.pairwise_cons.2 ⟨fun c hc => ?_, hs⟩
      rcases List.mem_cons.1 hc with rfl | hc
      · exact hlt
      · exact Nat.lt_trans hlt (hb c hc)
    · next hlt =>
      refine List.pairwise_cons.2 ⟨fun c hc => ?_, ih hm fun x hx => hne x (by simp [hx])⟩
      rcases Memory.mem_insert hc with rfl | hc
      · show b < a; omega
      · exact hb c hc

/-- A write inside 0..4095 keeps the canonical form. -/
theorem Memory.write_wf {fb a : Nat} {u : Byte} {m : Memory} (h : Memory.wf fb m) (ha : a < memSize) :
    Memory.wf fb (Memory.write fb m a u) := by
  have hd : (Memory.drop m a).Pairwise (fun c d => c.1 < d.1) := h.1.filter _
  unfold Memory.write
  split
  · exact ⟨hd, fun c hc => h.2 c (Memory.mem_drop hc).1⟩
  · next hu =>
    refine ⟨Memory.insert_sorted a u _ hd fun x hx => (Memory.mem_drop hx).2, fun c hc => ?_⟩
    rcases Memory.mem_insert hc with rfl | hc
    · exact ⟨ha, hu⟩
    · exact h.2 c (Memory.mem_drop hc).1

/-- In a sorted list every later address is above the first. -/
theorem Memory.above_of_sorted {b : Nat} {u : Byte} {m : Memory}
    (h : ((b, u) :: m).Pairwise (fun c d : Host.Cell => c.1 < d.1)) : ∀ x ∈ m, b < x.1 :=
  fun x hx => (List.pairwise_cons.1 h).1 x hx

/-- Nothing listed is in canonical form: memory after power-on. -/
theorem Memory.wf_nil (fb : Nat) : Memory.wf fb [] := by simp [Memory.wf]

/-- Canonical memories that read the same at every address are the same data. -/
theorem Memory.eq_of_read_eq {fb : Nat} {m m' : Memory} (h : Memory.wf fb m) (h' : Memory.wf fb m')
    (e : ∀ a, Memory.read fb m a = Memory.read fb m' a) : m = m' := by
  induction m generalizing m' with
  | nil =>
    cases m' with
    | nil => rfl
    | cons c m' =>
      have := e c.1
      rw [Memory.read_cons, if_pos rfl] at this
      exact absurd this.symm (h'.2 c (by simp)).2
  | cons c m ih =>
    obtain ⟨b, u⟩ := c
    cases m' with
    | nil =>
      have := e b
      rw [Memory.read_cons, if_pos rfl] at this
      exact absurd this (h.2 (b, u) (by simp)).2
    | cons d m' =>
      obtain ⟨b', u'⟩ := d
      have hm : Memory.wf fb m := ⟨(List.pairwise_cons.1 h.1).2, fun c hc => h.2 c (by simp [hc])⟩
      have hm' : Memory.wf fb m' := ⟨(List.pairwise_cons.1 h'.1).2, fun c hc => h'.2 c (by simp [hc])⟩
      have ab := Memory.above_of_sorted h.1
      have ab' := Memory.above_of_sorted h'.1
      have hbb : b = b' := by
        rcases Nat.lt_trichotomy b b' with hlt | rfl | hlt
        · have := e b
          rw [Memory.read_cons, if_pos rfl, Memory.read_cons, if_neg (by omega),
            Memory.read_unlisted fb b m' fun x hx => by have := ab' x hx; omega] at this
          exact absurd this (h.2 (b, u) (by simp)).2
        · rfl
        · have := e b'
          rw [Memory.read_cons, if_neg (by omega), Memory.read_cons, if_pos rfl,
            Memory.read_unlisted fb b' m fun x hx => by have := ab x hx; omega] at this
          exact absurd this.symm (h'.2 (b', u') (by simp)).2
      subst hbb
      have huu : u = u' := by simpa [Memory.read_cons] using e b
      subst huu
      congr 1
      refine ih hm hm' fun a => ?_
      by_cases hab : a = b
      · subst hab
        rw [Memory.read_unlisted fb a m fun x hx => by have := ab x hx; omega,
          Memory.read_unlisted fb a m' fun x hx => by have := ab' x hx; omega]
      · simpa [Memory.read_cons, hab] using e a

end Sys2Proof.Machine
end

