-- ==== Sys2Proof/Laws/State.lean ====
section
/-!
SUPPORT. Sys2Proof/Laws/State.lean: for every named update of the state, what each field holds after it, and which of the read
functions it does not touch. Each is true by rfl, so that no later proof unfolds a record update.
-/
namespace Sys2Proof.Machine


/-! ## setReg -/

@[simp] theorem setReg_v (s : State) (x : Reg) (b : Byte) : (s.setReg x b).v = s.v.set x b := rfl
@[simp] theorem setReg_i (s : State) (x : Reg) (b : Byte) : (s.setReg x b).i = s.i := rfl
@[simp] theorem setReg_pc (s : State) (x : Reg) (b : Byte) : (s.setReg x b).pc = s.pc := rfl
@[simp] theorem setReg_stack (s : State) (x : Reg) (b : Byte) : (s.setReg x b).stack = s.stack := rfl
@[simp] theorem setReg_sp (s : State) (x : Reg) (b : Byte) : (s.setReg x b).sp = s.sp := rfl
@[simp] theorem setReg_dt (s : State) (x : Reg) (b : Byte) : (s.setReg x b).dt = s.dt := rfl
@[simp] theorem setReg_st (s : State) (x : Reg) (b : Byte) : (s.setReg x b).st = s.st := rfl
@[simp] theorem setReg_mem (s : State) (x : Reg) (b : Byte) : (s.setReg x b).mem = s.mem := rfl
@[simp] theorem setReg_display (s : State) (x : Reg) (b : Byte) : (s.setReg x b).display = s.display := rfl
@[simp] theorem setReg_wait (s : State) (x : Reg) (b : Byte) : (s.setReg x b).wait = s.wait := rfl
@[simp] theorem setReg_kprev (s : State) (x : Reg) (b : Byte) : (s.setReg x b).kprev = s.kprev := rfl
@[simp] theorem setReg_status (s : State) (x : Reg) (b : Byte) : (s.setReg x b).status = s.status := rfl
@[simp] theorem setReg_phase (s : State) (x : Reg) (b : Byte) : (s.setReg x b).phase = s.phase := rfl
@[simp] theorem setReg_cfg (s : State) (x : Reg) (b : Byte) : (s.setReg x b).cfg = s.cfg := rfl
@[simp] theorem setReg_inputs (s : State) (x : Reg) (b : Byte) : (s.setReg x b).inputs = s.inputs := rfl
@[simp] theorem setReg_drawNo (s : State) (x : Reg) (b : Byte) : (s.setReg x b).drawNo = s.drawNo := rfl
@[simp] theorem setReg_fb (s : State) (x : Reg) (b : Byte) : (s.setReg x b).fb = s.fb := rfl
@[simp] theorem setReg_input (s : State) (x : Reg) (b : Byte) : (s.setReg x b).input = s.input := rfl
@[simp] theorem setReg_keys (s : State) (x : Reg) (b : Byte) : (s.setReg x b).keys = s.keys := rfl
@[simp] theorem setReg_keyDown (s : State) (x : Reg) (b : Byte) (k : Key) : (s.setReg x b).keyDown k = s.keyDown k := rfl
@[simp] theorem setReg_byteAt (s : State) (x : Reg) (b : Byte) (c : Nat) : (s.setReg x b).byteAt c = s.byteAt c := rfl
@[simp] theorem setReg_readByte (s : State) (x : Reg) (b : Byte) (c : Addr) : (s.setReg x b).readByte c = s.readByte c := rfl
@[simp] theorem setReg_entry (s : State) (x : Reg) (b : Byte) (j : Fin 16) : (s.setReg x b).entry j = s.entry j := rfl
@[simp] theorem setReg_pixel (s : State) (x : Reg) (b : Byte) (y : Fin 32) (z : Fin 64) : (s.setReg x b).pixel y z = s.pixel y z := rfl
@[simp] theorem setReg_ea (s : State) (x : Reg) (b : Byte) (k : Nat) : (s.setReg x b).ea k = s.ea k := rfl
@[simp] theorem setReg_fetch (s : State) (x : Reg) (b : Byte) : (s.setReg x b).fetch = s.fetch := rfl
@[simp] theorem setReg_jumpReg (s : State) (x : Reg) (b : Byte) (m : Addr) : (s.setReg x b).jumpReg m = s.jumpReg m := rfl
@[simp] theorem setReg_glyphAddr (s : State) (x : Reg) (b : Byte) (d : Fin 16) : (s.setReg x b).glyphAddr d = s.glyphAddr d := rfl
@[simp] theorem setReg_pressed (s : State) (x : Reg) (b : Byte) (k : Key) : (s.setReg x b).pressed k = s.pressed k := rfl
@[simp] theorem setReg_firstPress (s : State) (x : Reg) (b : Byte) : (s.setReg x b).firstPress = s.firstPress := rfl

/-! ## setI -/

@[simp] theorem setI_v (s : State) (a : Word) : (s.setI a).v = s.v := rfl
@[simp] theorem setI_i (s : State) (a : Word) : (s.setI a).i = a := rfl
@[simp] theorem setI_pc (s : State) (a : Word) : (s.setI a).pc = s.pc := rfl
@[simp] theorem setI_stack (s : State) (a : Word) : (s.setI a).stack = s.stack := rfl
@[simp] theorem setI_sp (s : State) (a : Word) : (s.setI a).sp = s.sp := rfl
@[simp] theorem setI_dt (s : State) (a : Word) : (s.setI a).dt = s.dt := rfl
@[simp] theorem setI_st (s : State) (a : Word) : (s.setI a).st = s.st := rfl
@[simp] theorem setI_mem (s : State) (a : Word) : (s.setI a).mem = s.mem := rfl
@[simp] theorem setI_display (s : State) (a : Word) : (s.setI a).display = s.display := rfl
@[simp] theorem setI_wait (s : State) (a : Word) : (s.setI a).wait = s.wait := rfl
@[simp] theorem setI_kprev (s : State) (a : Word) : (s.setI a).kprev = s.kprev := rfl
@[simp] theorem setI_status (s : State) (a : Word) : (s.setI a).status = s.status := rfl
@[simp] theorem setI_phase (s : State) (a : Word) : (s.setI a).phase = s.phase := rfl
@[simp] theorem setI_cfg (s : State) (a : Word) : (s.setI a).cfg = s.cfg := rfl
@[simp] theorem setI_inputs (s : State) (a : Word) : (s.setI a).inputs = s.inputs := rfl
@[simp] theorem setI_drawNo (s : State) (a : Word) : (s.setI a).drawNo = s.drawNo := rfl
@[simp] theorem setI_reg (s : State) (a : Word) (y : Reg) : (s.setI a).reg y = s.reg y := rfl
@[simp] theorem setI_fb (s : State) (a : Word) : (s.setI a).fb = s.fb := rfl
@[simp] theorem setI_input (s : State) (a : Word) : (s.setI a).input = s.input := rfl
@[simp] theorem setI_keys (s : State) (a : Word) : (s.setI a).keys = s.keys := rfl
@[simp] theorem setI_keyDown (s : State) (a : Word) (k : Key) : (s.setI a).keyDown k = s.keyDown k := rfl
@[simp] theorem setI_byteAt (s : State) (a : Word) (c : Nat) : (s.setI a).byteAt c = s.byteAt c := rfl
@[simp] theorem setI_readByte (s : State) (a : Word) (c : Addr) : (s.setI a).readByte c = s.readByte c := rfl
@[simp] theorem setI_entry (s : State) (a : Word) (j : Fin 16) : (s.setI a).entry j = s.entry j := rfl
@[simp] theorem setI_pixel (s : State) (a : Word) (y : Fin 32) (z : Fin 64) : (s.setI a).pixel y z = s.pixel y z := rfl
@[simp] theorem setI_fetch (s : State) (a : Word) : (s.setI a).fetch = s.fetch := rfl
@[simp] theorem setI_shiftOperand (s : State) (a : Word) (y z : Reg) : (s.setI a).shiftOperand y z = s.shiftOperand y z := rfl
@[simp] theorem setI_jumpReg (s : State) (a : Word) (m : Addr) : (s.setI a).jumpReg m = s.jumpReg m := rfl
@[simp] theorem setI_glyphAddr (s : State) (a : Word) (d : Fin 16) : (s.setI a).glyphAddr d = s.glyphAddr d := rfl
@[simp] theorem setI_pressed (s : State) (a : Word) (k : Key) : (s.setI a).pressed k = s.pressed k := rfl
@[simp] theorem setI_firstPress (s : State) (a : Word) : (s.setI a).firstPress = s.firstPress := rfl

/-! ## setDt -/

@[simp] theorem setDt_v (s : State) (b : Byte) : (s.setDt b).v = s.v := rfl
@[simp] theorem setDt_i (s : State) (b : Byte) : (s.setDt b).i = s.i := rfl
@[simp] theorem setDt_pc (s : State) (b : Byte) : (s.setDt b).pc = s.pc := rfl
@[simp] theorem setDt_stack (s : State) (b : Byte) : (s.setDt b).stack = s.stack := rfl
@[simp] theorem setDt_sp (s : State) (b : Byte) : (s.setDt b).sp = s.sp := rfl
@[simp] theorem setDt_dt (s : State) (b : Byte) : (s.setDt b).dt = b := rfl
@[simp] theorem setDt_st (s : State) (b : Byte) : (s.setDt b).st = s.st := rfl
@[simp] theorem setDt_mem (s : State) (b : Byte) : (s.setDt b).mem = s.mem := rfl
@[simp] theorem setDt_display (s : State) (b : Byte) : (s.setDt b).display = s.display := rfl
@[simp] theorem setDt_wait (s : State) (b : Byte) : (s.setDt b).wait = s.wait := rfl
@[simp] theorem setDt_kprev (s : State) (b : Byte) : (s.setDt b).kprev = s.kprev := rfl
@[simp] theorem setDt_status (s : State) (b : Byte) : (s.setDt b).status = s.status := rfl
@[simp] theorem setDt_phase (s : State) (b : Byte) : (s.setDt b).phase = s.phase := rfl
@[simp] theorem setDt_cfg (s : State) (b : Byte) : (s.setDt b).cfg = s.cfg := rfl
@[simp] theorem setDt_inputs (s : State) (b : Byte) : (s.setDt b).inputs = s.inputs := rfl
@[simp] theorem setDt_drawNo (s : State) (b : Byte) : (s.setDt b).drawNo = s.drawNo := rfl
@[simp] theorem setDt_reg (s : State) (b : Byte) (y : Reg) : (s.setDt b).reg y = s.reg y := rfl
@[simp] theorem setDt_fb (s : State) (b : Byte) : (s.setDt b).fb = s.fb := rfl
@[simp] theorem setDt_input (s : State) (b : Byte) : (s.setDt b).input = s.input := rfl
@[simp] theorem setDt_keys (s : State) (b : Byte) : (s.setDt b).keys = s.keys := rfl
@[simp] theorem setDt_keyDown (s : State) (b : Byte) (k : Key) : (s.setDt b).keyDown k = s.keyDown k := rfl
@[simp] theorem setDt_byteAt (s : State) (b : Byte) (c : Nat) : (s.setDt b).byteAt c = s.byteAt c := rfl
@[simp] theorem setDt_readByte (s : State) (b : Byte) (c : Addr) : (s.setDt b).readByte c = s.readByte c := rfl
@[simp] theorem setDt_entry (s : State) (b : Byte) (j : Fin 16) : (s.setDt b).entry j = s.entry j := rfl
@[simp] theorem setDt_pixel (s : State) (b : Byte) (y : Fin 32) (z : Fin 64) : (s.setDt b).pixel y z = s.pixel y z := rfl
@[simp] theorem setDt_ea (s : State) (b : Byte) (k : Nat) : (s.setDt b).ea k = s.ea k := rfl
@[simp] theorem setDt_fetch (s : State) (b : Byte) : (s.setDt b).fetch = s.fetch := rfl
@[simp] theorem setDt_shiftOperand (s : State) (b : Byte) (y z : Reg) : (s.setDt b).shiftOperand y z = s.shiftOperand y z := rfl
@[simp] theorem setDt_jumpReg (s : State) (b : Byte) (m : Addr) : (s.setDt b).jumpReg m = s.jumpReg m := rfl
@[simp] theorem setDt_glyphAddr (s : State) (b : Byte) (d : Fin 16) : (s.setDt b).glyphAddr d = s.glyphAddr d := rfl
@[simp] theorem setDt_draw (s : State) (b : Byte) (y z : Reg) (m : Fin 16) : (s.setDt b).draw y z m = s.draw y z m := rfl
@[simp] theorem setDt_pressed (s : State) (b : Byte) (k : Key) : (s.setDt b).pressed k = s.pressed k := rfl
@[simp] theorem setDt_firstPress (s : State) (b : Byte) : (s.setDt b).firstPress = s.firstPress := rfl

/-! ## setSt -/

@[simp] theorem setSt_v (s : State) (b : Byte) : (s.setSt b).v = s.v := rfl
@[simp] theorem setSt_i (s : State) (b : Byte) : (s.setSt b).i = s.i := rfl
@[simp] theorem setSt_pc (s : State) (b : Byte) : (s.setSt b).pc = s.pc := rfl
@[simp] theorem setSt_stack (s : State) (b : Byte) : (s.setSt b).stack = s.stack := rfl
@[simp] theorem setSt_sp (s : State) (b : Byte) : (s.setSt b).sp = s.sp := rfl
@[simp] theorem setSt_dt (s : State) (b : Byte) : (s.setSt b).dt = s.dt := rfl
@[simp] theorem setSt_st (s : State) (b : Byte) : (s.setSt b).st = b := rfl
@[simp] theorem setSt_mem (s : State) (b : Byte) : (s.setSt b).mem = s.mem := rfl
@[simp] theorem setSt_display (s : State) (b : Byte) : (s.setSt b).display = s.display := rfl
@[simp] theorem setSt_wait (s : State) (b : Byte) : (s.setSt b).wait = s.wait := rfl
@[simp] theorem setSt_kprev (s : State) (b : Byte) : (s.setSt b).kprev = s.kprev := rfl
@[simp] theorem setSt_status (s : State) (b : Byte) : (s.setSt b).status = s.status := rfl
@[simp] theorem setSt_phase (s : State) (b : Byte) : (s.setSt b).phase = s.phase := rfl
@[simp] theorem setSt_cfg (s : State) (b : Byte) : (s.setSt b).cfg = s.cfg := rfl
@[simp] theorem setSt_inputs (s : State) (b : Byte) : (s.setSt b).inputs = s.inputs := rfl
@[simp] theorem setSt_drawNo (s : State) (b : Byte) : (s.setSt b).drawNo = s.drawNo := rfl
@[simp] theorem setSt_reg (s : State) (b : Byte) (y : Reg) : (s.setSt b).reg y = s.reg y := rfl
@[simp] theorem setSt_fb (s : State) (b : Byte) : (s.setSt b).fb = s.fb := rfl
@[simp] theorem setSt_input (s : State) (b : Byte) : (s.setSt b).input = s.input := rfl
@[simp] theorem setSt_keys (s : State) (b : Byte) : (s.setSt b).keys = s.keys := rfl
@[simp] theorem setSt_keyDown (s : State) (b : Byte) (k : Key) : (s.setSt b).keyDown k = s.keyDown k := rfl
@[simp] theorem setSt_byteAt (s : State) (b : Byte) (c : Nat) : (s.setSt b).byteAt c = s.byteAt c := rfl
@[simp] theorem setSt_readByte (s : State) (b : Byte) (c : Addr) : (s.setSt b).readByte c = s.readByte c := rfl
@[simp] theorem setSt_entry (s : State) (b : Byte) (j : Fin 16) : (s.setSt b).entry j = s.entry j := rfl
@[simp] theorem setSt_pixel (s : State) (b : Byte) (y : Fin 32) (z : Fin 64) : (s.setSt b).pixel y z = s.pixel y z := rfl
@[simp] theorem setSt_ea (s : State) (b : Byte) (k : Nat) : (s.setSt b).ea k = s.ea k := rfl
@[simp] theorem setSt_fetch (s : State) (b : Byte) : (s.setSt b).fetch = s.fetch := rfl
@[simp] theorem setSt_shiftOperand (s : State) (b : Byte) (y z : Reg) : (s.setSt b).shiftOperand y z = s.shiftOperand y z := rfl
@[simp] theorem setSt_jumpReg (s : State) (b : Byte) (m : Addr) : (s.setSt b).jumpReg m = s.jumpReg m := rfl
@[simp] theorem setSt_glyphAddr (s : State) (b : Byte) (d : Fin 16) : (s.setSt b).glyphAddr d = s.glyphAddr d := rfl
@[simp] theorem setSt_draw (s : State) (b : Byte) (y z : Reg) (m : Fin 16) : (s.setSt b).draw y z m = s.draw y z m := rfl
@[simp] theorem setSt_pressed (s : State) (b : Byte) (k : Key) : (s.setSt b).pressed k = s.pressed k := rfl
@[simp] theorem setSt_firstPress (s : State) (b : Byte) : (s.setSt b).firstPress = s.firstPress := rfl

/-! ## setWait -/

@[simp] theorem setWait_v (s : State) (w : Option Reg) : (s.setWait w).v = s.v := rfl
@[simp] theorem setWait_i (s : State) (w : Option Reg) : (s.setWait w).i = s.i := rfl
@[simp] theorem setWait_pc (s : State) (w : Option Reg) : (s.setWait w).pc = s.pc := rfl
@[simp] theorem setWait_stack (s : State) (w : Option Reg) : (s.setWait w).stack = s.stack := rfl
@[simp] theorem setWait_sp (s : State) (w : Option Reg) : (s.setWait w).sp = s.sp := rfl
@[simp] theorem setWait_dt (s : State) (w : Option Reg) : (s.setWait w).dt = s.dt := rfl
@[simp] theorem setWait_st (s : State) (w : Option Reg) : (s.setWait w).st = s.st := rfl
@[simp] theorem setWait_mem (s : State) (w : Option Reg) : (s.setWait w).mem = s.mem := rfl
@[simp] theorem setWait_display (s : State) (w : Option Reg) : (s.setWait w).display = s.display := rfl
@[simp] theorem setWait_wait (s : State) (w : Option Reg) : (s.setWait w).wait = w := rfl
@[simp] theorem setWait_kprev (s : State) (w : Option Reg) : (s.setWait w).kprev = s.kprev := rfl
@[simp] theorem setWait_status (s : State) (w : Option Reg) : (s.setWait w).status = s.status := rfl
@[simp] theorem setWait_phase (s : State) (w : Option Reg) : (s.setWait w).phase = s.phase := rfl
@[simp] theorem setWait_cfg (s : State) (w : Option Reg) : (s.setWait w).cfg = s.cfg := rfl
@[simp] theorem setWait_inputs (s : State) (w : Option Reg) : (s.setWait w).inputs = s.inputs := rfl
@[simp] theorem setWait_drawNo (s : State) (w : Option Reg) : (s.setWait w).drawNo = s.drawNo := rfl
@[simp] theorem setWait_reg (s : State) (w : Option Reg) (y : Reg) : (s.setWait w).reg y = s.reg y := rfl
@[simp] theorem setWait_fb (s : State) (w : Option Reg) : (s.setWait w).fb = s.fb := rfl
@[simp] theorem setWait_input (s : State) (w : Option Reg) : (s.setWait w).input = s.input := rfl
@[simp] theorem setWait_keys (s : State) (w : Option Reg) : (s.setWait w).keys = s.keys := rfl
@[simp] theorem setWait_keyDown (s : State) (w : Option Reg) (k : Key) : (s.setWait w).keyDown k = s.keyDown k := rfl
@[simp] theorem setWait_byteAt (s : State) (w : Option Reg) (c : Nat) : (s.setWait w).byteAt c = s.byteAt c := rfl
@[simp] theorem setWait_readByte (s : State) (w : Option Reg) (c : Addr) : (s.setWait w).readByte c = s.readByte c := rfl
@[simp] theorem setWait_entry (s : State) (w : Option Reg) (j : Fin 16) : (s.setWait w).entry j = s.entry j := rfl
@[simp] theorem setWait_pixel (s : State) (w : Option Reg) (y : Fin 32) (z : Fin 64) : (s.setWait w).pixel y z = s.pixel y z := rfl
@[simp] theorem setWait_ea (s : State) (w : Option Reg) (k : Nat) : (s.setWait w).ea k = s.ea k := rfl
@[simp] theorem setWait_fetch (s : State) (w : Option Reg) : (s.setWait w).fetch = s.fetch := rfl
@[simp] theorem setWait_shiftOperand (s : State) (w : Option Reg) (y z : Reg) : (s.setWait w).shiftOperand y z = s.shiftOperand y z := rfl
@[simp] theorem setWait_jumpReg (s : State) (w : Option Reg) (m : Addr) : (s.setWait w).jumpReg m = s.jumpReg m := rfl
@[simp] theorem setWait_glyphAddr (s : State) (w : Option Reg) (d : Fin 16) : (s.setWait w).glyphAddr d = s.glyphAddr d := rfl
@[simp] theorem setWait_draw (s : State) (w : Option Reg) (y z : Reg) (m : Fin 16) : (s.setWait w).draw y z m = s.draw y z m := rfl
@[simp] theorem setWait_pressed (s : State) (w : Option Reg) (k : Key) : (s.setWait w).pressed k = s.pressed k := rfl
@[simp] theorem setWait_firstPress (s : State) (w : Option Reg) : (s.setWait w).firstPress = s.firstPress := rfl

/-! ## setDisplay -/

@[simp] theorem setDisplay_v (s : State) (e : Display) : (s.setDisplay e).v = s.v := rfl
@[simp] theorem setDisplay_i (s : State) (e : Display) : (s.setDisplay e).i = s.i := rfl
@[simp] theorem setDisplay_pc (s : State) (e : Display) : (s.setDisplay e).pc = s.pc := rfl
@[simp] theorem setDisplay_stack (s : State) (e : Display) : (s.setDisplay e).stack = s.stack := rfl
@[simp] theorem setDisplay_sp (s : State) (e : Display) : (s.setDisplay e).sp = s.sp := rfl
@[simp] theorem setDisplay_dt (s : State) (e : Display) : (s.setDisplay e).dt = s.dt := rfl
@[simp] theorem setDisplay_st (s : State) (e : Display) : (s.setDisplay e).st = s.st := rfl
@[simp] theorem setDisplay_mem (s : State) (e : Display) : (s.setDisplay e).mem = s.mem := rfl
@[simp] theorem setDisplay_display (s : State) (e : Display) : (s.setDisplay e).display = e := rfl
@[simp] theorem setDisplay_wait (s : State) (e : Display) : (s.setDisplay e).wait = s.wait := rfl
@[simp] theorem setDisplay_kprev (s : State) (e : Display) : (s.setDisplay e).kprev = s.kprev := rfl
@[simp] theorem setDisplay_status (s : State) (e : Display) : (s.setDisplay e).status = s.status := rfl
@[simp] theorem setDisplay_phase (s : State) (e : Display) : (s.setDisplay e).phase = s.phase := rfl
@[simp] theorem setDisplay_cfg (s : State) (e : Display) : (s.setDisplay e).cfg = s.cfg := rfl
@[simp] theorem setDisplay_inputs (s : State) (e : Display) : (s.setDisplay e).inputs = s.inputs := rfl
@[simp] theorem setDisplay_drawNo (s : State) (e : Display) : (s.setDisplay e).drawNo = s.drawNo := rfl
@[simp] theorem setDisplay_reg (s : State) (e : Display) (y : Reg) : (s.setDisplay e).reg y = s.reg y := rfl
@[simp] theorem setDisplay_fb (s : State) (e : Display) : (s.setDisplay e).fb = s.fb := rfl
@[simp] theorem setDisplay_input (s : State) (e : Display) : (s.setDisplay e).input = s.input := rfl
@[simp] theorem setDisplay_keys (s : State) (e : Display) : (s.setDisplay e).keys = s.keys := rfl
@[simp] theorem setDisplay_keyDown (s : State) (e : Display) (k : Key) : (s.setDisplay e).keyDown k = s.keyDown k := rfl
@[simp] theorem setDisplay_byteAt (s : State) (e : Display) (c : Nat) : (s.setDisplay e).byteAt c = s.byteAt c := rfl
@[simp] theorem setDisplay_readByte (s : State) (e : Display) (c : Addr) : (s.setDisplay e).readByte c = s.readByte c := rfl
@[simp] theorem setDisplay_entry (s : State) (e : Display) (j : Fin 16) : (s.setDisplay e).entry j = s.entry j := rfl
@[simp] theorem setDisplay_ea (s : State) (e : Display) (k : Nat) : (s.setDisplay e).ea k = s.ea k := rfl
@[simp] theorem setDisplay_fetch (s : State) (e : Display) : (s.setDisplay e).fetch = s.fetch := rfl
@[simp] theorem setDisplay_shiftOperand (s : State) (e : Display) (y z : Reg) : (s.setDisplay e).shiftOperand y z = s.shiftOperand y z := rfl
@[simp] theorem setDisplay_jumpReg (s : State) (e : Display) (m : Addr) : (s.setDisplay e).jumpReg m = s.jumpReg m := rfl
@[simp] theorem setDisplay_glyphAddr (s : State) (e : Display) (d : Fin 16) : (s.setDisplay e).glyphAddr d = s.glyphAddr d := rfl
@[simp] theorem setDisplay_pressed (s : State) (e : Display) (k : Key) : (s.setDisplay e).pressed k = s.pressed k := rfl
@[simp] theorem setDisplay_firstPress (s : State) (e : Display) : (s.setDisplay e).firstPress = s.firstPress := rfl

/-! ## setStatus -/

@[simp] theorem setStatus_v (s : State) (x : Status) : (s.setStatus x).v = s.v := rfl
@[simp] theorem setStatus_i (s : State) (x : Status) : (s.setStatus x).i = s.i := rfl
@[simp] theorem setStatus_pc (s : State) (x : Status) : (s.setStatus x).pc = s.pc := rfl
@[simp] theorem setStatus_stack (s : State) (x : Status) : (s.setStatus x).stack = s.stack := rfl
@[simp] theorem setStatus_sp (s : State) (x : Status) : (s.setStatus x).sp = s.sp := rfl
@[simp] theorem setStatus_dt (s : State) (x : Status) : (s.setStatus x).dt = s.dt := rfl
@[simp] theorem setStatus_st (s : State) (x : Status) : (s.setStatus x).st = s.st := rfl
@[simp] theorem setStatus_mem (s : State) (x : Status) : (s.setStatus x).mem = s.mem := rfl
@[simp] theorem setStatus_display (s : State) (x : Status) : (s.setStatus x).display = s.display := rfl
@[simp] theorem setStatus_wait (s : State) (x : Status) : (s.setStatus x).wait = s.wait := rfl
@[simp] theorem setStatus_kprev (s : State) (x : Status) : (s.setStatus x).kprev = s.kprev := rfl
@[simp] theorem setStatus_status (s : State) (x : Status) : (s.setStatus x).status = x := rfl
@[simp] theorem setStatus_phase (s : State) (x : Status) : (s.setStatus x).phase = s.phase := rfl
@[simp] theorem setStatus_cfg (s : State) (x : Status) : (s.setStatus x).cfg = s.cfg := rfl
@[simp] theorem setStatus_inputs (s : State) (x : Status) : (s.setStatus x).inputs = s.inputs := rfl
@[simp] theorem setStatus_drawNo (s : State) (x : Status) : (s.setStatus x).drawNo = s.drawNo := rfl
@[simp] theorem setStatus_reg (s : State) (x : Status) (y : Reg) : (s.setStatus x).reg y = s.reg y := rfl
@[simp] theorem setStatus_fb (s : State) (x : Status) : (s.setStatus x).fb = s.fb := rfl
@[simp] theorem setStatus_input (s : State) (x : Status) : (s.setStatus x).input = s.input := rfl
@[simp] theorem setStatus_keys (s : State) (x : Status) : (s.setStatus x).keys = s.keys := rfl
@[simp] theorem setStatus_keyDown (s : State) (x : Status) (k : Key) : (s.setStatus x).keyDown k = s.keyDown k := rfl
@[simp] theorem setStatus_byteAt (s : State) (x : Status) (c : Nat) : (s.setStatus x).byteAt c = s.byteAt c := rfl
@[simp] theorem setStatus_readByte (s : State) (x : Status) (c : Addr) : (s.setStatus x).readByte c = s.readByte c := rfl
@[simp] theorem setStatus_entry (s : State) (x : Status) (j : Fin 16) : (s.setStatus x).entry j = s.entry j := rfl
@[simp] theorem setStatus_pixel (s : State) (x : Status) (y : Fin 32) (z : Fin 64) : (s.setStatus x).pixel y z = s.pixel y z := rfl
@[simp] theorem setStatus_ea (s : State) (x : Status) (k : Nat) : (s.setStatus x).ea k = s.ea k := rfl
@[simp] theorem setStatus_fetch (s : State) (x : Status) : (s.setStatus x).fetch = s.fetch := rfl
@[simp] theorem setStatus_shiftOperand (s : State) (x : Status) (y z : Reg) : (s.setStatus x).shiftOperand y z = s.shiftOperand y z := rfl
@[simp] theorem setStatus_jumpReg (s : State) (x : Status) (m : Addr) : (s.setStatus x).jumpReg m = s.jumpReg m := rfl
@[simp] theorem setStatus_glyphAddr (s : State) (x : Status) (d : Fin 16) : (s.setStatus x).glyphAddr d = s.glyphAddr d := rfl
@[simp] theorem setStatus_draw (s : State) (x : Status) (y z : Reg) (m : Fin 16) : (s.setStatus x).draw y z m = s.draw y z m := rfl
@[simp] theorem setStatus_pressed (s : State) (x : Status) (k : Key) : (s.setStatus x).pressed k = s.pressed k := rfl
@[simp] theorem setStatus_firstPress (s : State) (x : Status) : (s.setStatus x).firstPress = s.firstPress := rfl

/-! ## setPhase -/

@[simp] theorem setPhase_v (s : State) (n : Nat) : (s.setPhase n).v = s.v := rfl
@[simp] theorem setPhase_i (s : State) (n : Nat) : (s.setPhase n).i = s.i := rfl
@[simp] theorem setPhase_pc (s : State) (n : Nat) : (s.setPhase n).pc = s.pc := rfl
@[simp] theorem setPhase_stack (s : State) (n : Nat) : (s.setPhase n).stack = s.stack := rfl
@[simp] theorem setPhase_sp (s : State) (n : Nat) : (s.setPhase n).sp = s.sp := rfl
@[simp] theorem setPhase_dt (s : State) (n : Nat) : (s.setPhase n).dt = s.dt := rfl
@[simp] theorem setPhase_st (s : State) (n : Nat) : (s.setPhase n).st = s.st := rfl
@[simp] theorem setPhase_mem (s : State) (n : Nat) : (s.setPhase n).mem = s.mem := rfl
@[simp] theorem setPhase_display (s : State) (n : Nat) : (s.setPhase n).display = s.display := rfl
@[simp] theorem setPhase_wait (s : State) (n : Nat) : (s.setPhase n).wait = s.wait := rfl
@[simp] theorem setPhase_kprev (s : State) (n : Nat) : (s.setPhase n).kprev = s.kprev := rfl
@[simp] theorem setPhase_status (s : State) (n : Nat) : (s.setPhase n).status = s.status := rfl
@[simp] theorem setPhase_phase (s : State) (n : Nat) : (s.setPhase n).phase = n := rfl
@[simp] theorem setPhase_cfg (s : State) (n : Nat) : (s.setPhase n).cfg = s.cfg := rfl
@[simp] theorem setPhase_inputs (s : State) (n : Nat) : (s.setPhase n).inputs = s.inputs := rfl
@[simp] theorem setPhase_drawNo (s : State) (n : Nat) : (s.setPhase n).drawNo = s.drawNo := rfl
@[simp] theorem setPhase_reg (s : State) (n : Nat) (y : Reg) : (s.setPhase n).reg y = s.reg y := rfl
@[simp] theorem setPhase_fb (s : State) (n : Nat) : (s.setPhase n).fb = s.fb := rfl
@[simp] theorem setPhase_input (s : State) (n : Nat) : (s.setPhase n).input = s.input := rfl
@[simp] theorem setPhase_keys (s : State) (n : Nat) : (s.setPhase n).keys = s.keys := rfl
@[simp] theorem setPhase_keyDown (s : State) (n : Nat) (k : Key) : (s.setPhase n).keyDown k = s.keyDown k := rfl
@[simp] theorem setPhase_byteAt (s : State) (n : Nat) (c : Nat) : (s.setPhase n).byteAt c = s.byteAt c := rfl
@[simp] theorem setPhase_readByte (s : State) (n : Nat) (c : Addr) : (s.setPhase n).readByte c = s.readByte c := rfl
@[simp] theorem setPhase_entry (s : State) (n : Nat) (j : Fin 16) : (s.setPhase n).entry j = s.entry j := rfl
@[simp] theorem setPhase_pixel (s : State) (n : Nat) (y : Fin 32) (z : Fin 64) : (s.setPhase n).pixel y z = s.pixel y z := rfl
@[simp] theorem setPhase_ea (s : State) (n : Nat) (k : Nat) : (s.setPhase n).ea k = s.ea k := rfl
@[simp] theorem setPhase_fetch (s : State) (n : Nat) : (s.setPhase n).fetch = s.fetch := rfl
@[simp] theorem setPhase_shiftOperand (s : State) (n : Nat) (y z : Reg) : (s.setPhase n).shiftOperand y z = s.shiftOperand y z := rfl
@[simp] theorem setPhase_jumpReg (s : State) (n : Nat) (m : Addr) : (s.setPhase n).jumpReg m = s.jumpReg m := rfl
@[simp] theorem setPhase_glyphAddr (s : State) (n : Nat) (d : Fin 16) : (s.setPhase n).glyphAddr d = s.glyphAddr d := rfl
@[simp] theorem setPhase_draw (s : State) (n : Nat) (y z : Reg) (m : Fin 16) : (s.setPhase n).draw y z m = s.draw y z m := rfl
@[simp] theorem setPhase_pressed (s : State) (n : Nat) (k : Key) : (s.setPhase n).pressed k = s.pressed k := rfl
@[simp] theorem setPhase_firstPress (s : State) (n : Nat) : (s.setPhase n).firstPress = s.firstPress := rfl

/-! ## setPc -/

@[simp] theorem setPc_v (s : State) (a : Word) : (s.setPc a).v = s.v := rfl
@[simp] theorem setPc_i (s : State) (a : Word) : (s.setPc a).i = s.i := rfl
@[simp] theorem setPc_pc (s : State) (a : Word) : (s.setPc a).pc = a := rfl
@[simp] theorem setPc_stack (s : State) (a : Word) : (s.setPc a).stack = s.stack := rfl
@[simp] theorem setPc_sp (s : State) (a : Word) : (s.setPc a).sp = s.sp := rfl
@[simp] theorem setPc_dt (s : State) (a : Word) : (s.setPc a).dt = s.dt := rfl
@[simp] theorem setPc_st (s : State) (a : Word) : (s.setPc a).st = s.st := rfl
@[simp] theorem setPc_mem (s : State) (a : Word) : (s.setPc a).mem = s.mem := rfl
@[simp] theorem setPc_display (s : State) (a : Word) : (s.setPc a).display = s.display := rfl
@[simp] theorem setPc_wait (s : State) (a : Word) : (s.setPc a).wait = s.wait := rfl
@[simp] theorem setPc_kprev (s : State) (a : Word) : (s.setPc a).kprev = s.kprev := rfl
@[simp] theorem setPc_status (s : State) (a : Word) : (s.setPc a).status = s.status := rfl
@[simp] theorem setPc_phase (s : State) (a : Word) : (s.setPc a).phase = s.phase := rfl
@[simp] theorem setPc_cfg (s : State) (a : Word) : (s.setPc a).cfg = s.cfg := rfl
@[simp] theorem setPc_inputs (s : State) (a : Word) : (s.setPc a).inputs = s.inputs := rfl
@[simp] theorem setPc_drawNo (s : State) (a : Word) : (s.setPc a).drawNo = s.drawNo := rfl
@[simp] theorem setPc_reg (s : State) (a : Word) (y : Reg) : (s.setPc a).reg y = s.reg y := rfl
@[simp] theorem setPc_fb (s : State) (a : Word) : (s.setPc a).fb = s.fb := rfl
@[simp] theorem setPc_input (s : State) (a : Word) : (s.setPc a).input = s.input := rfl
@[simp] theorem setPc_keys (s : State) (a : Word) : (s.setPc a).keys = s.keys := rfl
@[simp] theorem setPc_keyDown (s : State) (a : Word) (k : Key) : (s.setPc a).keyDown k = s.keyDown k := rfl
@[simp] theorem setPc_byteAt (s : State) (a : Word) (c : Nat) : (s.setPc a).byteAt c = s.byteAt c := rfl
@[simp] theorem setPc_readByte (s : State) (a : Word) (c : Addr) : (s.setPc a).readByte c = s.readByte c := rfl
@[simp] theorem setPc_entry (s : State) (a : Word) (j : Fin 16) : (s.setPc a).entry j = s.entry j := rfl
@[simp] theorem setPc_pixel (s : State) (a : Word) (y : Fin 32) (z : Fin 64) : (s.setPc a).pixel y z = s.pixel y z := rfl
@[simp] theorem setPc_ea (s : State) (a : Word) (k : Nat) : (s.setPc a).ea k = s.ea k := rfl
@[simp] theorem setPc_shiftOperand (s : State) (a : Word) (y z : Reg) : (s.setPc a).shiftOperand y z = s.shiftOperand y z := rfl
@[simp] theorem setPc_jumpReg (s : State) (a : Word) (m : Addr) : (s.setPc a).jumpReg m = s.jumpReg m := rfl
@[simp] theorem setPc_glyphAddr (s : State) (a : Word) (d : Fin 16) : (s.setPc a).glyphAddr d = s.glyphAddr d := rfl
@[simp] theorem setPc_draw (s : State) (a : Word) (y z : Reg) (m : Fin 16) : (s.setPc a).draw y z m = s.draw y z m := rfl
@[simp] theorem setPc_pressed (s : State) (a : Word) (k : Key) : (s.setPc a).pressed k = s.pressed k := rfl
@[simp] theorem setPc_firstPress (s : State) (a : Word) : (s.setPc a).firstPress = s.firstPress := rfl

/-! ## advance -/

@[simp] theorem advance_v (s : State) : (s.advance).v = s.v := rfl
@[simp] theorem advance_i (s : State) : (s.advance).i = s.i := rfl
@[simp] theorem advance_pc (s : State) : (s.advance).pc = s.pc + 2 := rfl
@[simp] theorem advance_stack (s : State) : (s.advance).stack = s.stack := rfl
@[simp] theorem advance_sp (s : State) : (s.advance).sp = s.sp := rfl
@[simp] theorem advance_dt (s : State) : (s.advance).dt = s.dt := rfl
@[simp] theorem advance_st (s : State) : (s.advance).st = s.st := rfl
@[simp] theorem advance_mem (s : State) : (s.advance).mem = s.mem := rfl
@[simp] theorem advance_display (s : State) : (s.advance).display = s.display := rfl
@[simp] theorem advance_wait (s : State) : (s.advance).wait = s.wait := rfl
@[simp] theorem advance_kprev (s : State) : (s.advance).kprev = s.kprev := rfl
@[simp] theorem advance_status (s : State) : (s.advance).status = s.status := rfl
@[simp] theorem advance_phase (s : State) : (s.advance).phase = s.phase := rfl
@[simp] theorem advance_cfg (s : State) : (s.advance).cfg = s.cfg := rfl
@[simp] theorem advance_inputs (s : State) : (s.advance).inputs = s.inputs := rfl
@[simp] theorem advance_drawNo (s : State) : (s.advance).drawNo = s.drawNo := rfl
@[simp] theorem advance_reg (s : State) (y : Reg) : (s.advance).reg y = s.reg y := rfl
@[simp] theorem advance_fb (s : State) : (s.advance).fb = s.fb := rfl
@[simp] theorem advance_input (s : State) : (s.advance).input = s.input := rfl
@[simp] theorem advance_keys (s : State) : (s.advance).keys = s.keys := rfl
@[simp] theorem advance_keyDown (s : State) (k : Key) : (s.advance).keyDown k = s.keyDown k := rfl
@[simp] theorem advance_byteAt (s : State) (c : Nat) : (s.advance).byteAt c = s.byteAt c := rfl
@[simp] theorem advance_readByte (s : State) (c : Addr) : (s.advance).readByte c = s.readByte c := rfl
@[simp] theorem advance_entry (s : State) (j : Fin 16) : (s.advance).entry j = s.entry j := rfl
@[simp] theorem advance_pixel (s : State) (y : Fin 32) (z : Fin 64) : (s.advance).pixel y z = s.pixel y z := rfl
@[simp] theorem advance_ea (s : State) (k : Nat) : (s.advance).ea k = s.ea k := rfl
@[simp] theorem advance_shiftOperand (s : State) (y z : Reg) : (s.advance).shiftOperand y z = s.shiftOperand y z := rfl
@[simp] theorem advance_jumpReg (s : State) (m : Addr) : (s.advance).jumpReg m = s.jumpReg m := rfl
@[simp] theorem advance_glyphAddr (s : State) (d : Fin 16) : (s.advance).glyphAddr d = s.glyphAddr d := rfl
@[simp] theorem advance_draw (s : State) (y z : Reg) (m : Fin 16) : (s.advance).draw y z m = s.draw y z m := rfl
@[simp] theorem advance_pressed (s : State) (k : Key) : (s.advance).pressed k = s.pressed k := rfl
@[simp] theorem advance_firstPress (s : State) : (s.advance).firstPress = s.firstPress := rfl

/-! ## skip -/

@[simp] theorem skip_v (s : State) : (s.skip).v = s.v := rfl
@[simp] theorem skip_i (s : State) : (s.skip).i = s.i := rfl
@[simp] theorem skip_pc (s : State) : (s.skip).pc = s.pc + 2 := rfl
@[simp] theorem skip_stack (s : State) : (s.skip).stack = s.stack := rfl
@[simp] theorem skip_sp (s : State) : (s.skip).sp = s.sp := rfl
@[simp] theorem skip_dt (s : State) : (s.skip).dt = s.dt := rfl
@[simp] theorem skip_st (s : State) : (s.skip).st = s.st := rfl
@[simp] theorem skip_mem (s : State) : (s.skip).mem = s.mem := rfl
@[simp] theorem skip_display (s : State) : (s.skip).display = s.display := rfl
@[simp] theorem skip_wait (s : State) : (s.skip).wait = s.wait := rfl
@[simp] theorem skip_kprev (s : State) : (s.skip).kprev = s.kprev := rfl
@[simp] theorem skip_status (s : State) : (s.skip).status = s.status := rfl
@[simp] theorem skip_phase (s : State) : (s.skip).phase = s.phase := rfl
@[simp] theorem skip_cfg (s : State) : (s.skip).cfg = s.cfg := rfl
@[simp] theorem skip_inputs (s : State) : (s.skip).inputs = s.inputs := rfl
@[simp] theorem skip_drawNo (s : State) : (s.skip).drawNo = s.drawNo := rfl
@[simp] theorem skip_reg (s : State) (y : Reg) : (s.skip).reg y = s.reg y := rfl
@[simp] theorem skip_fb (s : State) : (s.skip).fb = s.fb := rfl
@[simp] theorem skip_input (s : State) : (s.skip).input = s.input := rfl
@[simp] theorem skip_keys (s : State) : (s.skip).keys = s.keys := rfl
@[simp] theorem skip_keyDown (s : State) (k : Key) : (s.skip).keyDown k = s.keyDown k := rfl
@[simp] theorem skip_byteAt (s : State) (c : Nat) : (s.skip).byteAt c = s.byteAt c := rfl
@[simp] theorem skip_readByte (s : State) (c : Addr) : (s.skip).readByte c = s.readByte c := rfl
@[simp] theorem skip_entry (s : State) (j : Fin 16) : (s.skip).entry j = s.entry j := rfl
@[simp] theorem skip_pixel (s : State) (y : Fin 32) (z : Fin 64) : (s.skip).pixel y z = s.pixel y z := rfl
@[simp] theorem skip_ea (s : State) (k : Nat) : (s.skip).ea k = s.ea k := rfl
@[simp] theorem skip_shiftOperand (s : State) (y z : Reg) : (s.skip).shiftOperand y z = s.shiftOperand y z := rfl
@[simp] theorem skip_jumpReg (s : State) (m : Addr) : (s.skip).jumpReg m = s.jumpReg m := rfl
@[simp] theorem skip_glyphAddr (s : State) (d : Fin 16) : (s.skip).glyphAddr d = s.glyphAddr d := rfl
@[simp] theorem skip_draw (s : State) (y z : Reg) (m : Fin 16) : (s.skip).draw y z m = s.draw y z m := rfl
@[simp] theorem skip_pressed (s : State) (k : Key) : (s.skip).pressed k = s.pressed k := rfl
@[simp] theorem skip_firstPress (s : State) : (s.skip).firstPress = s.firstPress := rfl

/-! ## writeByte -/

@[simp] theorem writeByte_v (s : State) (a : Addr) (b : Byte) : (s.writeByte a b).v = s.v := rfl
@[simp] theorem writeByte_i (s : State) (a : Addr) (b : Byte) : (s.writeByte a b).i = s.i := rfl
@[simp] theorem writeByte_pc (s : State) (a : Addr) (b : Byte) : (s.writeByte a b).pc = s.pc := rfl
@[simp] theorem writeByte_stack (s : State) (a : Addr) (b : Byte) : (s.writeByte a b).stack = s.stack := rfl
@[simp] theorem writeByte_sp (s : State) (a : Addr) (b : Byte) : (s.writeByte a b).sp = s.sp := rfl
@[simp] theorem writeByte_dt (s : State) (a : Addr) (b : Byte) : (s.writeByte a b).dt = s.dt := rfl
@[simp] theorem writeByte_st (s : State) (a : Addr) (b : Byte) : (s.writeByte a b).st = s.st := rfl
@[simp] theorem writeByte_mem (s : State) (a : Addr) (b : Byte) : (s.writeByte a b).mem = Memory.write s.fb s.mem a.toNat b := rfl
@[simp] theorem writeByte_display (s : State) (a : Addr) (b : Byte) : (s.writeByte a b).display = s.display := rfl
@[simp] theorem writeByte_wait (s : State) (a : Addr) (b : Byte) : (s.writeByte a b).wait = s.wait := rfl
@[simp] theorem writeByte_kprev (s : State) (a : Addr) (b : Byte) : (s.writeByte a b).kprev = s.kprev := rfl
@[simp] theorem writeByte_status (s : State) (a : Addr) (b : Byte) : (s.writeByte a b).status = s.status := rfl
@[simp] theorem writeByte_phase (s : State) (a : Addr) (b : Byte) : (s.writeByte a b).phase = s.phase := rfl
@[simp] theorem writeByte_cfg (s : State) (a : Addr) (b : Byte) : (s.writeByte a b).cfg = s.cfg := rfl
@[simp] theorem writeByte_inputs (s : State) (a : Addr) (b : Byte) : (s.writeByte a b).inputs = s.inputs := rfl
@[simp] theorem writeByte_drawNo (s : State) (a : Addr) (b : Byte) : (s.writeByte a b).drawNo = s.drawNo := rfl
@[simp] theorem writeByte_reg (s : State) (a : Addr) (b : Byte) (y : Reg) : (s.writeByte a b).reg y = s.reg y := rfl
@[simp] theorem writeByte_fb (s : State) (a : Addr) (b : Byte) : (s.writeByte a b).fb = s.fb := rfl
@[simp] theorem writeByte_input (s : State) (a : Addr) (b : Byte) : (s.writeByte a b).input = s.input := rfl
@[simp] theorem writeByte_keys (s : State) (a : Addr) (b : Byte) : (s.writeByte a b).keys = s.keys := rfl
@[simp] theorem writeByte_keyDown (s : State) (a : Addr) (b : Byte) (k : Key) : (s.writeByte a b).keyDown k = s.keyDown k := rfl
@[simp] theorem writeByte_entry (s : State) (a : Addr) (b : Byte) (j : Fin 16) : (s.writeByte a b).entry j = s.entry j := rfl
@[simp] theorem writeByte_pixel (s : State) (a : Addr) (b : Byte) (y : Fin 32) (z : Fin 64) : (s.writeByte a b).pixel y z = s.pixel y z := rfl
@[simp] theorem writeByte_ea (s : State) (a : Addr) (b : Byte) (k : Nat) : (s.writeByte a b).ea k = s.ea k := rfl
@[simp] theorem writeByte_shiftOperand (s : State) (a : Addr) (b : Byte) (y z : Reg) : (s.writeByte a b).shiftOperand y z = s.shiftOperand y z := rfl
@[simp] theorem writeByte_jumpReg (s : State) (a : Addr) (b : Byte) (m : Addr) : (s.writeByte a b).jumpReg m = s.jumpReg m := rfl
@[simp] theorem writeByte_glyphAddr (s : State) (a : Addr) (b : Byte) (d : Fin 16) : (s.writeByte a b).glyphAddr d = s.glyphAddr d := rfl
@[simp] theorem writeByte_pressed (s : State) (a : Addr) (b : Byte) (k : Key) : (s.writeByte a b).pressed k = s.pressed k := rfl
@[simp] theorem writeByte_firstPress (s : State) (a : Addr) (b : Byte) : (s.writeByte a b).firstPress = s.firstPress := rfl

/-! ## consumeInput -/

@[simp] theorem consumeInput_v (s : State) : (s.consumeInput).v = s.v := rfl
@[simp] theorem consumeInput_i (s : State) : (s.consumeInput).i = s.i := rfl
@[simp] theorem consumeInput_pc (s : State) : (s.consumeInput).pc = s.pc := rfl
@[simp] theorem consumeInput_stack (s : State) : (s.consumeInput).stack = s.stack := rfl
@[simp] theorem consumeInput_sp (s : State) : (s.consumeInput).sp = s.sp := rfl
@[simp] theorem consumeInput_dt (s : State) : (s.consumeInput).dt = s.dt := rfl
@[simp] theorem consumeInput_st (s : State) : (s.consumeInput).st = s.st := rfl
@[simp] theorem consumeInput_mem (s : State) : (s.consumeInput).mem = s.mem := rfl
@[simp] theorem consumeInput_display (s : State) : (s.consumeInput).display = s.display := rfl
@[simp] theorem consumeInput_wait (s : State) : (s.consumeInput).wait = s.wait := rfl
@[simp] theorem consumeInput_kprev (s : State) : (s.consumeInput).kprev = s.kprev := rfl
@[simp] theorem consumeInput_status (s : State) : (s.consumeInput).status = s.status := rfl
@[simp] theorem consumeInput_phase (s : State) : (s.consumeInput).phase = s.phase := rfl
@[simp] theorem consumeInput_cfg (s : State) : (s.consumeInput).cfg = s.cfg := rfl
@[simp] theorem consumeInput_inputs (s : State) : (s.consumeInput).inputs = s.inputs.tail := rfl
@[simp] theorem consumeInput_drawNo (s : State) : (s.consumeInput).drawNo = s.drawNo + 1 := rfl
@[simp] theorem consumeInput_reg (s : State) (y : Reg) : (s.consumeInput).reg y = s.reg y := rfl
@[simp] theorem consumeInput_fb (s : State) : (s.consumeInput).fb = s.fb := rfl
@[simp] theorem consumeInput_byteAt (s : State) (c : Nat) : (s.consumeInput).byteAt c = s.byteAt c := rfl
@[simp] theorem consumeInput_readByte (s : State) (c : Addr) : (s.consumeInput).readByte c = s.readByte c := rfl
@[simp] theorem consumeInput_entry (s : State) (j : Fin 16) : (s.consumeInput).entry j = s.entry j := rfl
@[simp] theorem consumeInput_pixel (s : State) (y : Fin 32) (z : Fin 64) : (s.consumeInput).pixel y z = s.pixel y z := rfl
@[simp] theorem consumeInput_ea (s : State) (k : Nat) : (s.consumeInput).ea k = s.ea k := rfl
@[simp] theorem consumeInput_fetch (s : State) : (s.consumeInput).fetch = s.fetch := rfl
@[simp] theorem consumeInput_shiftOperand (s : State) (y z : Reg) : (s.consumeInput).shiftOperand y z = s.shiftOperand y z := rfl
@[simp] theorem consumeInput_jumpReg (s : State) (m : Addr) : (s.consumeInput).jumpReg m = s.jumpReg m := rfl
@[simp] theorem consumeInput_glyphAddr (s : State) (d : Fin 16) : (s.consumeInput).glyphAddr d = s.glyphAddr d := rfl
@[simp] theorem consumeInput_draw (s : State) (y z : Reg) (m : Fin 16) : (s.consumeInput).draw y z m = s.draw y z m := rfl

/-! ## latch -/

@[simp] theorem latch_v (s : State) : (s.latch).v = s.v := rfl
@[simp] theorem latch_i (s : State) : (s.latch).i = s.i := rfl
@[simp] theorem latch_pc (s : State) : (s.latch).pc = s.pc := rfl
@[simp] theorem latch_stack (s : State) : (s.latch).stack = s.stack := rfl
@[simp] theorem latch_sp (s : State) : (s.latch).sp = s.sp := rfl
@[simp] theorem latch_dt (s : State) : (s.latch).dt = s.dt := rfl
@[simp] theorem latch_st (s : State) : (s.latch).st = s.st := rfl
@[simp] theorem latch_mem (s : State) : (s.latch).mem = s.mem := rfl
@[simp] theorem latch_display (s : State) : (s.latch).display = s.display := rfl
@[simp] theorem latch_wait (s : State) : (s.latch).wait = s.wait := rfl
@[simp] theorem latch_kprev (s : State) : (s.latch).kprev = s.keys := rfl
@[simp] theorem latch_status (s : State) : (s.latch).status = s.status := rfl
@[simp] theorem latch_phase (s : State) : (s.latch).phase = s.phase := rfl
@[simp] theorem latch_cfg (s : State) : (s.latch).cfg = s.cfg := rfl
@[simp] theorem latch_inputs (s : State) : (s.latch).inputs = s.inputs := rfl
@[simp] theorem latch_drawNo (s : State) : (s.latch).drawNo = s.drawNo := rfl
@[simp] theorem latch_reg (s : State) (y : Reg) : (s.latch).reg y = s.reg y := rfl
@[simp] theorem latch_fb (s : State) : (s.latch).fb = s.fb := rfl
@[simp] theorem latch_input (s : State) : (s.latch).input = s.input := rfl
@[simp] theorem latch_keys (s : State) : (s.latch).keys = s.keys := rfl
@[simp] theorem latch_keyDown (s : State) (k : Key) : (s.latch).keyDown k = s.keyDown k := rfl
@[simp] theorem latch_byteAt (s : State) (c : Nat) : (s.latch).byteAt c = s.byteAt c := rfl
@[simp] theorem latch_readByte (s : State) (c : Addr) : (s.latch).readByte c = s.readByte c := rfl
@[simp] theorem latch_entry (s : State) (j : Fin 16) : (s.latch).entry j = s.entry j := rfl
@[simp] theorem latch_pixel (s : State) (y : Fin 32) (z : Fin 64) : (s.latch).pixel y z = s.pixel y z := rfl
@[simp] theorem latch_ea (s : State) (k : Nat) : (s.latch).ea k = s.ea k := rfl
@[simp] theorem latch_fetch (s : State) : (s.latch).fetch = s.fetch := rfl
@[simp] theorem latch_shiftOperand (s : State) (y z : Reg) : (s.latch).shiftOperand y z = s.shiftOperand y z := rfl
@[simp] theorem latch_jumpReg (s : State) (m : Addr) : (s.latch).jumpReg m = s.jumpReg m := rfl
@[simp] theorem latch_glyphAddr (s : State) (d : Fin 16) : (s.latch).glyphAddr d = s.glyphAddr d := rfl
@[simp] theorem latch_draw (s : State) (y z : Reg) (m : Fin 16) : (s.latch).draw y z m = s.draw y z m := rfl

/-! ## loadReset -/

@[simp] theorem loadReset_v (s : State) : (s.loadReset).v = Vector.replicate 16 0 := rfl
@[simp] theorem loadReset_i (s : State) : (s.loadReset).i = 0 := rfl
@[simp] theorem loadReset_pc (s : State) : (s.loadReset).pc = 0x200 := rfl
@[simp] theorem loadReset_stack (s : State) : (s.loadReset).stack = Vector.replicate 16 0 := rfl
@[simp] theorem loadReset_sp (s : State) : (s.loadReset).sp = 0 := rfl
@[simp] theorem loadReset_dt (s : State) : (s.loadReset).dt = 0 := rfl
@[simp] theorem loadReset_st (s : State) : (s.loadReset).st = 0 := rfl
@[simp] theorem loadReset_mem (s : State) : (s.loadReset).mem = s.mem := rfl
@[simp] theorem loadReset_display (s : State) : (s.loadReset).display = s.display := rfl
@[simp] theorem loadReset_wait (s : State) : (s.loadReset).wait = none := rfl
@[simp] theorem loadReset_kprev (s : State) : (s.loadReset).kprev = 0 := rfl
@[simp] theorem loadReset_status (s : State) : (s.loadReset).status = .running := rfl
@[simp] theorem loadReset_phase (s : State) : (s.loadReset).phase = 0 := rfl
@[simp] theorem loadReset_cfg (s : State) : (s.loadReset).cfg = s.cfg := rfl
@[simp] theorem loadReset_inputs (s : State) : (s.loadReset).inputs = s.inputs := rfl
@[simp] theorem loadReset_drawNo (s : State) : (s.loadReset).drawNo = s.drawNo := rfl
@[simp] theorem loadReset_fb (s : State) : (s.loadReset).fb = s.fb := rfl
@[simp] theorem loadReset_input (s : State) : (s.loadReset).input = s.input := rfl
@[simp] theorem loadReset_keys (s : State) : (s.loadReset).keys = s.keys := rfl
@[simp] theorem loadReset_keyDown (s : State) (k : Key) : (s.loadReset).keyDown k = s.keyDown k := rfl
@[simp] theorem loadReset_byteAt (s : State) (c : Nat) : (s.loadReset).byteAt c = s.byteAt c := rfl
@[simp] theorem loadReset_readByte (s : State) (c : Addr) : (s.loadReset).readByte c = s.readByte c := rfl
@[simp] theorem loadReset_pixel (s : State) (y : Fin 32) (z : Fin 64) : (s.loadReset).pixel y z = s.pixel y z := rfl
@[simp] theorem loadReset_jumpReg (s : State) (m : Addr) : (s.loadReset).jumpReg m = s.jumpReg m := rfl
@[simp] theorem loadReset_glyphAddr (s : State) (d : Fin 16) : (s.loadReset).glyphAddr d = s.glyphAddr d := rfl

/-! ## schedule -/

@[simp] theorem schedule_v (s : State) (xs : List CycleInput) : (s.schedule xs).v = s.v := rfl
@[simp] theorem schedule_i (s : State) (xs : List CycleInput) : (s.schedule xs).i = s.i := rfl
@[simp] theorem schedule_pc (s : State) (xs : List CycleInput) : (s.schedule xs).pc = s.pc := rfl
@[simp] theorem schedule_stack (s : State) (xs : List CycleInput) : (s.schedule xs).stack = s.stack := rfl
@[simp] theorem schedule_sp (s : State) (xs : List CycleInput) : (s.schedule xs).sp = s.sp := rfl
@[simp] theorem schedule_dt (s : State) (xs : List CycleInput) : (s.schedule xs).dt = s.dt := rfl
@[simp] theorem schedule_st (s : State) (xs : List CycleInput) : (s.schedule xs).st = s.st := rfl
@[simp] theorem schedule_mem (s : State) (xs : List CycleInput) : (s.schedule xs).mem = s.mem := rfl
@[simp] theorem schedule_display (s : State) (xs : List CycleInput) : (s.schedule xs).display = s.display := rfl
@[simp] theorem schedule_wait (s : State) (xs : List CycleInput) : (s.schedule xs).wait = s.wait := rfl
@[simp] theorem schedule_kprev (s : State) (xs : List CycleInput) : (s.schedule xs).kprev = s.kprev := rfl
@[simp] theorem schedule_status (s : State) (xs : List CycleInput) : (s.schedule xs).status = s.status := rfl
@[simp] theorem schedule_phase (s : State) (xs : List CycleInput) : (s.schedule xs).phase = s.phase := rfl
@[simp] theorem schedule_cfg (s : State) (xs : List CycleInput) : (s.schedule xs).cfg = s.cfg := rfl
@[simp] theorem schedule_inputs (s : State) (xs : List CycleInput) : (s.schedule xs).inputs = xs := rfl
@[simp] theorem schedule_drawNo (s : State) (xs : List CycleInput) : (s.schedule xs).drawNo = s.drawNo := rfl
@[simp] theorem schedule_reg (s : State) (xs : List CycleInput) (y : Reg) : (s.schedule xs).reg y = s.reg y := rfl
@[simp] theorem schedule_fb (s : State) (xs : List CycleInput) : (s.schedule xs).fb = s.fb := rfl
@[simp] theorem schedule_byteAt (s : State) (xs : List CycleInput) (c : Nat) : (s.schedule xs).byteAt c = s.byteAt c := rfl
@[simp] theorem schedule_readByte (s : State) (xs : List CycleInput) (c : Addr) : (s.schedule xs).readByte c = s.readByte c := rfl
@[simp] theorem schedule_entry (s : State) (xs : List CycleInput) (j : Fin 16) : (s.schedule xs).entry j = s.entry j := rfl
@[simp] theorem schedule_pixel (s : State) (xs : List CycleInput) (y : Fin 32) (z : Fin 64) : (s.schedule xs).pixel y z = s.pixel y z := rfl
@[simp] theorem schedule_ea (s : State) (xs : List CycleInput) (k : Nat) : (s.schedule xs).ea k = s.ea k := rfl
@[simp] theorem schedule_fetch (s : State) (xs : List CycleInput) : (s.schedule xs).fetch = s.fetch := rfl
@[simp] theorem schedule_shiftOperand (s : State) (xs : List CycleInput) (y z : Reg) : (s.schedule xs).shiftOperand y z = s.shiftOperand y z := rfl
@[simp] theorem schedule_jumpReg (s : State) (xs : List CycleInput) (m : Addr) : (s.schedule xs).jumpReg m = s.jumpReg m := rfl
@[simp] theorem schedule_glyphAddr (s : State) (xs : List CycleInput) (d : Fin 16) : (s.schedule xs).glyphAddr d = s.glyphAddr d := rfl
@[simp] theorem schedule_draw (s : State) (xs : List CycleInput) (y z : Reg) (m : Fin 16) : (s.schedule xs).draw y z m = s.draw y z m := rfl

/-! ## power-on -/

@[simp] theorem powerOn_status (c : Config) : (State.powerOn c).status = .running := rfl
@[simp] theorem powerOn_mem (c : Config) : (State.powerOn c).mem = [] := rfl
@[simp] theorem powerOn_cfg (c : Config) : (State.powerOn c).cfg = c := rfl

end Sys2Proof.Machine
end

