-- ==== Sys2Proof/Laws/Ops.lean ====
section
/-!
SUPPORT. Sys2Proof/Laws/Ops.lean: one lemma per shared operation that says everything it can do, for callers to cite instead of
unfolding it.
-/
namespace Sys2Proof.Machine

/-! ## Registers (10_state.md R20) -/

theorem reg_setReg (s : State) (x y : Reg) (b : Byte) : (s.setReg x b).reg y = if y = x then b else s.reg y := by
  show (s.v.set x.val b)[y.val] = _
  rw [Vector.getElem_set]
  simp only [Fin.ext_iff, eq_comm (a := x.val)]
  rfl

@[simp] theorem reg_setReg_same (s : State) (x : Reg) (b : Byte) : (s.setReg x b).reg x = b := by simp [reg_setReg]

theorem reg_setReg_ne (s : State) {x y : Reg} (b : Byte) (h : y ≠ x) : (s.setReg x b).reg y = s.reg y := by
  simp [reg_setReg, h]

/-- The result, then the flag, which wins where both go to VF (41_arith_logic.md R100). -/
theorem reg_setRegFlag (s : State) (x y : Reg) (r : Byte) (c : Bool) :
    (s.setRegFlag x r c).reg y = if y = regF then flagByte c else if y = x then r else s.reg y := by
  simp [State.setRegFlag, reg_setReg]

/-- Registers written one after another, each with a byte that depends on its own number only. -/
theorem reg_foldl_setReg (f : Reg → Byte) (rs : List Reg) (s : State) (y : Reg) :
    (rs.foldl (fun t r => t.setReg r (f r)) s).reg y = if y ∈ rs then f y else s.reg y := by
  induction rs generalizing s with
  | nil => simp
  | cons r rs ih =>
    rw [List.foldl_cons, ih, reg_setReg]
    by_cases h : y ∈ rs
    · simp [h]
    · by_cases e : y = r <;> simp [h, e]

/-- A fold of register writes is the state with other registers. -/
theorem foldl_setReg_v (f : Reg → Byte) (rs : List Reg) (s : State) :
    ∃ w, rs.foldl (fun t r => t.setReg r (f r)) s = { s with v := w } := by
  induction rs generalizing s with
  | nil => exact ⟨s.v, rfl⟩
  | cons r rs ih => obtain ⟨w, h⟩ := ih (s.setReg r (f r)); exact ⟨w, h⟩

/-! ## Memory (20_memory.md R51, R57) -/

theorem byteAt_writeByte (s : State) (a : Addr) (b : Byte) (c : Nat) :
    (s.writeByte a b).byteAt c = if c = a.toNat then b else s.byteAt c :=
  Memory.read_write s.fb a.toNat c b s.mem

theorem writeByte_wf (s : State) (a : Addr) (b : Byte) (h : Memory.wf s.fb s.mem) :
    Memory.wf (s.writeByte a b).fb (s.writeByte a b).mem :=
  Memory.write_wf h a.isLt

/-- Bytes written one after another at addresses that depend on an index. -/
theorem byteAt_foldl_writeByte {ι : Type} (ad : ι → Addr) (f : ι → Byte) (is : List ι) (s : State) (c : Nat)
    (inj : (is.map ad).Nodup) :
    (∀ j ∈ is, c = (ad j).toNat → (is.foldl (fun t j => t.writeByte (ad j) (f j)) s).byteAt c = f j) ∧
      ((∀ j ∈ is, c ≠ (ad j).toNat) → (is.foldl (fun t j => t.writeByte (ad j) (f j)) s).byteAt c = s.byteAt c) := by
  induction is generalizing s with
  | nil => simp
  | cons k is ih =>
    obtain ⟨hk, hn⟩ := List.nodup_cons.1 (List.map_cons ▸ inj)
    obtain ⟨h1, h2⟩ := ih (s.writeByte (ad k) (f k)) hn
    rw [List.foldl_cons]
    constructor
    · intro j hj hc
      rcases List.mem_cons.1 hj with rfl | hj
      · rw [h2 fun i hi e => hk (List.mem_map.2 ⟨i, hi, ?_⟩), byteAt_writeByte, if_pos hc]
        exact BitVec.eq_of_toNat_eq (by omega)
      · exact h1 j hj hc
    · intro h
      rw [h2 fun i hi => h i (by simp [hi]), byteAt_writeByte, if_neg (h k (by simp))]

/-- A fold of byte writes is the state with other memory, canonical if it was. -/
theorem foldl_writeByte_mem {ι : Type} (ad : ι → Addr) (f : ι → Byte) (is : List ι) (s : State) :
    ∃ m, is.foldl (fun t j => t.writeByte (ad j) (f j)) s = { s with mem := m } ∧
      (Memory.wf s.fb s.mem → Memory.wf s.fb m) := by
  induction is generalizing s with
  | nil => exact ⟨s.mem, rfl, id⟩
  | cons k is ih =>
    obtain ⟨m, h, hw⟩ := ih (s.writeByte (ad k) (f k))
    exact ⟨m, h, fun h0 => hw (writeByte_wf s _ _ h0)⟩

/-- The byte offsets of one transfer go to distinct addresses (20_memory.md R56). -/
theorem ea_injective (s : State) {j k : Nat} (hj : j < 4096) (hk : k < 4096) (h : s.ea j = s.ea k) : j = k := by
  have := congrArg BitVec.toNat h
  simp only [State.ea, m12, BitVec.toNat_setWidth, BitVec.toNat_add, BitVec.toNat_ofNat] at this
  omega

theorem ea_toNat (s : State) (k : Nat) : (s.ea k).toNat = (s.i.toNat + k) % 4096 := by
  simp only [State.ea, m12, BitVec.toNat_setWidth, BitVec.toNat_add, BitVec.toNat_ofNat]
  omega

theorem zext16_toNat (a : Addr) : (zext16 a).toNat = a.toNat := by
  simp only [zext16, BitVec.toNat_setWidth]; omega

/-- The registers V0..VX are those numbered up to X (48_bcd_bulk.md R181). -/
theorem mem_regsUpTo (x y : Reg) : y ∈ regsUpTo x ↔ y ≤ x := by
  simp only [regsUpTo, List.mem_map, List.mem_range]
  constructor
  · rintro ⟨a, ha, rfl⟩
    show (Fin.ofNat 16 a).val ≤ x.val
    simp only [Fin.ofNat]; omega
  · intro h
    refine ⟨y.val, Nat.lt_succ_of_le h, ?_⟩
    ext; simp

theorem regsUpTo_nodup (x : Reg) : (regsUpTo x).Nodup := by
  refine List.Nodup.map_on (fun a ha b hb h => ?_) List.nodup_range
  have := congrArg Fin.val h
  simp only [Fin.ofNat, List.mem_range] at *
  omega

/-! ## The fetch (20_memory.md R53) -/

theorem fetch_eq_none (s : State) : s.fetch = none ↔ 0xFFE < s.pc.toNat := by
  unfold State.fetch; split <;> simp_all

theorem fetch_eq_some (s : State) (w : Word) :
    s.fetch = some w ↔ s.pc.toNat ≤ 0xFFE ∧ w = s.byteAt s.pc.toNat ++ s.byteAt (s.pc.toNat + 1) := by
  unfold State.fetch
  split
  · simp; omega
  · simp only [Option.some.injEq]
    constructor
    · intro h; exact ⟨by omega, h.symm⟩
    · intro h; exact h.2.symm

/-! ## The call stack (10_state.md R24) -/

theorem push_full (s : State) (a : Word) (h : s.sp.val = 16) : s.push a = none := by simp [State.push, h]

/-- Push below capacity: one entry more, the entry at the old sp, everything else as it was. -/
theorem push_spec (s : State) (a : Word) (h : s.sp.val < 16) :
    ∃ (k : Vector Word 16) (n : Fin 17), s.push a = some { s with stack := k, sp := n } ∧ n.val = s.sp.val + 1 ∧
      ∀ j : Fin 16, k[j] = if j.val = s.sp.val then a else s.entry j := by
  refine ⟨_, _, by simp only [State.push, h, dif_pos]; rfl, rfl, fun j => ?_⟩
  show (s.stack.set s.sp.val a)[j.val] = _
  rw [Vector.getElem_set]
  simp only [eq_comm (a := s.sp.val)]
  rfl

theorem pop_empty (s : State) (h : s.sp.val = 0) : s.pop = none := by simp [State.pop, h]

/-- Pop above empty: the last live entry, one entry fewer, the entries themselves as they were. -/
theorem pop_spec (s : State) (h : 0 < s.sp.val) :
    ∃ n : Fin 17, s.pop = some (s.entry ⟨s.sp.val - 1, by omega⟩, { s with sp := n }) ∧ n.val = s.sp.val - 1 :=
  ⟨_, by simp only [State.pop, h, dif_pos]; rfl, rfl⟩

/-! ## Skips, raises, the end of a cycle and of a frame -/

/-- A skip adds 2 to pc when its comparison holds and changes nothing else (42_skips.md R120). -/
theorem skipIf_eq (s : State) (c : Bool) : s.skipIf c = s.setPc (if c then s.pc + 2 else s.pc) := by
  cases c <;> rfl

/-- A raise halts with its record and pc put back, but for an unknown word under Skip (40_cycle.md R97). -/
theorem raise_cases (s : State) (f : Fault) (a : Word) (w : Option Word) :
    (f = .unknownInstruction ∧ s.cfg.unknownPolicy = .skip ∧ s.raise f a w = s.setPc (a + 2)) ∨
      ((f ≠ .unknownInstruction ∨ s.cfg.unknownPolicy = .fatal) ∧
        s.raise f a w = (s.setPc a).setStatus (.halted f a w)) := by
  unfold State.raise
  by_cases h : f = .unknownInstruction ∧ s.cfg.unknownPolicy = .skip
  · exact .inl ⟨h.1, h.2, if_pos h⟩
  · refine .inr ⟨?_, if_neg h⟩
    by_cases hf : f = .unknownInstruction
    · right
      cases hp : s.cfg.unknownPolicy with
      | fatal => rfl
      | skip => exact absurd ⟨hf, hp⟩ h
    · exact .inl hf

/-- A raise of another fault than UnknownInstruction halts. -/
theorem raise_halts (s : State) {f : Fault} (a : Word) (w : Option Word) (h : f ≠ .unknownInstruction) :
    s.raise f a w = (s.setPc a).setStatus (.halted f a w) := if_neg fun e => h e.1

/-- The end of a cycle latches the keys where the engine still runs, else does nothing (R91, R97). -/
theorem endCycle_eq (s : State) :
    s.endCycle = { s with kprev := if s.status = .running then s.keys else s.kprev } := by
  unfold State.endCycle; split <;> rfl

/-- A waiting cycle: the lowest key that went down is delivered and ends the wait; the latch always follows (R95). -/
theorem waitingCycle_cases (s : State) (r : Reg) :
    (∃ k, s.firstPress = some k ∧
      s.waitingCycle r = ((s.setReg r (BitVec.ofNat 8 k.val)).setWait none).latch) ∨
      (s.firstPress = none ∧ s.waitingCycle r = s.latch) := by
  unfold State.waitingCycle
  cases h : s.firstPress with
  | none => exact .inr ⟨rfl, rfl⟩
  | some k => exact .inl ⟨k, rfl, rfl⟩

/-- The key delivered is the lowest one that went from released to pressed. -/
theorem firstPress_eq_some (s : State) (k : Key) :
    s.firstPress = some k ↔ s.pressed k = true ∧ ∀ j < k, s.pressed j = false := by
  unfold State.firstPress
  constructor
  · intro h
    refine ⟨List.find?_some h, fun j hj => ?_⟩
    obtain ⟨_, as, bs, hl, hn⟩ := List.find?_eq_some_iff_append.1 h
    have hs := List.pairwise_lt_finRange 16
    rw [hl] at hs
    have hm : j ∈ as ++ k :: bs := hl ▸ List.mem_finRange j
    rcases List.mem_append.1 hm with hj' | hj'
    · simpa using hn j hj'
    · rcases List.mem_cons.1 hj' with rfl | hj'
      · exact absurd hj (lt_irrefl _)
      · exact absurd ((List.pairwise_cons.1 (List.pairwise_append.1 hs).2.1).1 j hj') (not_lt.2 hj.le)
  · rintro ⟨hk, hn⟩
    cases h : (List.finRange 16).find? s.pressed with
    | none => exact absurd hk (by simpa using List.find?_eq_none.1 h k (List.mem_finRange k))
    | some j =>
      obtain ⟨hj, as, bs, hl, hb⟩ := List.find?_eq_some_iff_append.1 h
      rcases lt_trichotomy j k with hlt | rfl | hlt
      · exact absurd hj (by simp [hn j hlt])
      · rfl
      · have hs := List.pairwise_lt_finRange 16
        rw [hl] at hs
        have hm : k ∈ as ++ j :: bs := hl ▸ List.mem_finRange k
        rcases List.mem_append.1 hm with hk' | hk'
        · exact absurd hk (by simpa using hb k hk')
        · rcases List.mem_cons.1 hk' with rfl | hk'
          · rfl
          · exact absurd ((List.pairwise_cons.1 (List.pairwise_append.1 hs).2.1).1 k hk') (not_lt.2 hlt.le)

theorem firstPress_eq_none (s : State) : s.firstPress = none ↔ ∀ k, s.pressed k = false := by
  unfold State.firstPress
  simp [List.find?_eq_none]

/-! ## The display (46_display.md) -/

/-- A flip inverts its pixel and no other. -/
theorem pixel_flip (d : Display) (y y' : Fin 32) (x x' : Fin 64) :
    (d.flip y x).pixel y' x' = if y' = y ∧ x' = x then !d.pixel y x else d.pixel y' x' := by
  show ((d.set y.val ((d[y.val]).set x.val (!(d[y.val])[x.val])))[y'.val])[x'.val] = _
  rw [Vector.getElem_set]
  by_cases hy : y' = y
  · subst hy
    simp only [if_true, true_and]
    rw [Vector.getElem_set]
    simp only [Fin.ext_iff, eq_comm (a := x.val)]
    rfl
  · have : ¬ y.val = y'.val := fun e => hy (Fin.ext e.symm)
    simp only [this, if_false, hy, false_and]
    rfl

@[simp] theorem pixel_blank (y : Fin 32) (x : Fin 64) : Display.blank.pixel y x = false := by
  simp [Display.blank, Display.pixel]

/-- Two pictures with the same pixels are the same picture. -/
theorem display_ext (d e : Display) (h : ∀ y x, d.pixel y x = e.pixel y x) : d = e :=
  Vector.ext fun y hy => Vector.ext fun x hx => h ⟨y, hy⟩ ⟨x, hx⟩

end Sys2Proof.Machine
end

