-- ==== Sys2Proof/Laws/Exec.lean ====
section
/-!
SUPPORT. Sys2Proof/Laws/Exec.lean: what every instruction has in common: it answers a next state, and it leaves the driver's part of
the state alone (40_cycle.md R94).
-/
namespace Sys2Proof.Machine

/-- The parts of the state that no handler writes: latch, frame position, configuration and inputs. -/
structure DriverKept (s t : State) : Prop where
  /-- The key latch: written at the end of the cycle only (R91). -/
  kprev : t.kprev = s.kprev
  /-- The frame position: the driver's own (R35). -/
  phase : t.phase = s.phase
  /-- The configuration: fixed for the run (R31). -/
  cfg : t.cfg = s.cfg
  /-- The schedule of inputs. -/
  inputs : t.inputs = s.inputs
  /-- The number of samples taken. -/
  drawNo : t.drawNo = s.drawNo

theorem DriverKept.refl (s : State) : DriverKept s s := ⟨rfl, rfl, rfl, rfl, rfl⟩

theorem driverKept_skipIf (s : State) (c : Bool) : DriverKept s (s.skipIf c) := by
  rw [skipIf_eq]; exact ⟨rfl, rfl, rfl, rfl, rfl⟩

theorem driverKept_raise (s : State) (f : Fault) (a : Word) (w : Option Word) : DriverKept s (s.raise f a w) := by
  rcases raise_cases s f a w with ⟨_, _, h⟩ | ⟨_, h⟩ <;> rw [h] <;> exact ⟨rfl, rfl, rfl, rfl, rfl⟩

theorem driverKept_bumpI (s : State) (x : Reg) : DriverKept s (s.bumpI x) := by
  unfold State.bumpI; split <;> exact ⟨rfl, rfl, rfl, rfl, rfl⟩

/-! ## The four ways of call and return -/

theorem exec_call_full (nnn : Addr) (s : State) (h : s.sp.val = 16) :
    exec (.call nnn) s = .next (s.raiseInHandler .stackOverflow (encodeWord (.call nnn))) := by
  simp only [exec, execCall, push_full s s.pc h]

theorem exec_call_ok (nnn : Addr) (s t : State) (h : s.push s.pc = some t) :
    exec (.call nnn) s = .next (t.setPc (zext16 nnn)) := by
  simp only [exec, execCall, h]

theorem exec_ret_empty (s : State) (h : s.sp.val = 0) :
    exec .ret s = .next (s.raiseInHandler .stackUnderflow (encodeWord .ret)) := by
  simp only [exec, execRet, pop_empty s h]

theorem exec_ret_ok (s t : State) (a : Word) (h : s.pop = some (a, t)) : exec .ret s = .next (t.setPc a) := by
  simp only [exec, execRet, h]

/-- Every instruction answers a next state, and its handler leaves the driver's part alone. -/
theorem exec_next (i : Instr) (s : State) : ∃ t, exec i s = .next t ∧ DriverKept s t := by
  have plain : ∀ {t}, exec i s = .next t → DriverKept s t → ∃ t, exec i s = .next t ∧ DriverKept s t :=
    fun h k => ⟨_, h, k⟩
  cases i with
  | sys nnn => exact plain rfl (driverKept_raise _ _ _ _)
  | call nnn =>
    by_cases h : s.sp.val < 16
    · obtain ⟨k, n, hp, _⟩ := push_spec s s.pc h
      exact plain (exec_call_ok nnn s _ hp) ⟨rfl, rfl, rfl, rfl, rfl⟩
    · exact plain (exec_call_full nnn s (by omega)) (driverKept_raise _ _ _ _)
  | ret =>
    by_cases h : 0 < s.sp.val
    · obtain ⟨n, hp, _⟩ := pop_spec s h
      exact plain (exec_ret_ok s _ _ hp) ⟨rfl, rfl, rfl, rfl, rfl⟩
    · exact plain (exec_ret_empty s (by omega)) (driverKept_raise _ _ _ _)
  | seImm x nn => exact plain rfl (driverKept_skipIf _ _)
  | sneImm x nn => exact plain rfl (driverKept_skipIf _ _)
  | seReg x y => exact plain rfl (driverKept_skipIf _ _)
  | sneReg x y => exact plain rfl (driverKept_skipIf _ _)
  | skp x => exact plain rfl (driverKept_skipIf _ _)
  | sknp x => exact plain rfl (driverKept_skipIf _ _)
  | addI x =>
    refine plain rfl ?_
    split <;> exact ⟨rfl, rfl, rfl, rfl, rfl⟩
  | store x =>
    obtain ⟨m, h, _⟩ := foldl_writeByte_mem (fun r : Reg => s.ea r.val) s.reg (regsUpTo x) s
    refine plain rfl ?_
    obtain ⟨a, b, c, d, e⟩ := driverKept_bumpI (s.storeRegs (regsUpTo x)) x
    have k : DriverKept s (s.storeRegs (regsUpTo x)) := by
      unfold State.storeRegs; rw [h]; exact ⟨rfl, rfl, rfl, rfl, rfl⟩
    exact ⟨a.trans k.1, b.trans k.2, c.trans k.3, d.trans k.4, e.trans k.5⟩
  | load x =>
    obtain ⟨w, h⟩ := foldl_setReg_v (fun r : Reg => s.readByte (s.ea r.val)) (regsUpTo x) s
    refine plain rfl ?_
    obtain ⟨a, b, c, d, e⟩ := driverKept_bumpI (s.loadRegs (regsUpTo x)) x
    have k : DriverKept s (s.loadRegs (regsUpTo x)) := by
      unfold State.loadRegs; rw [h]; exact ⟨rfl, rfl, rfl, rfl, rfl⟩
    exact ⟨a.trans k.1, b.trans k.2, c.trans k.3, d.trans k.4, e.trans k.5⟩
  | _ => exact plain rfl ⟨rfl, rfl, rfl, rfl, rfl⟩

end Sys2Proof.Machine
end

