-- ==== Sys2Proof/Laws/Frames.lean ====
section
/-!
SUPPORT. Sys2Proof/Laws/Frames.lean: the frame of each shared operation: the parts of the state it can change and no other
(Safety.lean, KeptExcept), and how frames compose.
-/
namespace Sys2Proof.Machine

theorem KeptExcept.refl (ps : List Part) (s : State) : KeptExcept ps s s := by
  intro p _; cases p <;> first | rfl | exact ⟨rfl, rfl⟩

theorem Part.same_trans {p : Part} {s t u : State} (h : p.same s t) (k : p.same t u) : p.same s u := by
  cases p <;> first | exact Eq.trans k h | exact ⟨k.1.trans h.1, k.2.trans h.2⟩

theorem KeptExcept.trans {ps : List Part} {s t u : State} (h : KeptExcept ps s t) (k : KeptExcept ps t u) :
    KeptExcept ps s u :=
  fun p hp => Part.same_trans (h p hp) (k p hp)

theorem KeptExcept.mono {ps qs : List Part} {s t : State} (h : KeptExcept ps s t) (sub : ∀ p ∈ ps, p ∈ qs) :
    KeptExcept qs s t :=
  fun p hp => h p fun hp' => hp (sub p hp')

theorem kept_setReg (s : State) (x : Reg) (b : Byte) : KeptExcept [.reg x] s (s.setReg x b) := by
  intro p hp
  cases p with
  | reg y => exact reg_setReg_ne s b fun e => hp (by simp [e])
  | inputs => exact ⟨rfl, rfl⟩
  | _ => rfl

theorem kept_setRegFlag (s : State) (x : Reg) (b : Byte) (c : Bool) :
    KeptExcept [.reg x, .reg 15] s (s.setRegFlag x b c) :=
  ((kept_setReg s x b).mono (by simp)).trans ((kept_setReg _ regF _).mono (by simp))

theorem kept_setI (s : State) (a : Word) : KeptExcept [.i] s (s.setI a) := by
  intro p hp; cases p with
  | i => simp at hp
  | inputs => exact ⟨rfl, rfl⟩
  | _ => rfl

theorem kept_setPc (s : State) (a : Word) : KeptExcept [.pc] s (s.setPc a) := by
  intro p hp; cases p with
  | pc => simp at hp
  | inputs => exact ⟨rfl, rfl⟩
  | _ => rfl

theorem kept_setDt (s : State) (b : Byte) : KeptExcept [.dt] s (s.setDt b) := by
  intro p hp; cases p with
  | dt => simp at hp
  | inputs => exact ⟨rfl, rfl⟩
  | _ => rfl

theorem kept_setSt (s : State) (b : Byte) : KeptExcept [.st] s (s.setSt b) := by
  intro p hp; cases p with
  | st => simp at hp
  | inputs => exact ⟨rfl, rfl⟩
  | _ => rfl

theorem kept_setWait (s : State) (w : Option Reg) : KeptExcept [.wait] s (s.setWait w) := by
  intro p hp; cases p with
  | wait => simp at hp
  | inputs => exact ⟨rfl, rfl⟩
  | _ => rfl

theorem kept_setDisplay (s : State) (e : Display) : KeptExcept [.display] s (s.setDisplay e) := by
  intro p hp; cases p with
  | display => simp at hp
  | inputs => exact ⟨rfl, rfl⟩
  | _ => rfl

theorem kept_setStatus (s : State) (x : Status) : KeptExcept [.status] s (s.setStatus x) := by
  intro p hp; cases p with
  | status => simp at hp
  | inputs => exact ⟨rfl, rfl⟩
  | _ => rfl

theorem kept_setPhase (s : State) (n : Nat) : KeptExcept [.phase] s (s.setPhase n) := by
  intro p hp; cases p with
  | phase => simp at hp
  | inputs => exact ⟨rfl, rfl⟩
  | _ => rfl

theorem kept_consumeInput (s : State) : KeptExcept [.inputs] s s.consumeInput := by
  intro p hp; cases p with
  | inputs => simp at hp
  | _ => rfl

theorem kept_latch (s : State) : KeptExcept [.kprev] s s.latch := by
  intro p hp; cases p with
  | kprev => simp at hp
  | inputs => exact ⟨rfl, rfl⟩
  | _ => rfl

theorem kept_writeByte (s : State) (a : Addr) (b : Byte) : KeptExcept [.byte a.toNat] s (s.writeByte a b) := by
  intro p hp; cases p with
  | byte c => exact (byteAt_writeByte s a b c).trans (if_neg fun e => hp (by simp [e]))
  | inputs => exact ⟨rfl, rfl⟩
  | _ => rfl

theorem kept_endCycle (s : State) : KeptExcept [.kprev] s s.endCycle := by
  unfold State.endCycle; split
  · exact kept_latch s
  · exact .refl _ s

theorem kept_endSlot (s : State) : KeptExcept [.phase, .inputs] s s.endSlot :=
  ((kept_setPhase s _).mono (by simp)).trans ((kept_consumeInput _).mono (by simp))

theorem kept_tick (s : State) : KeptExcept [.dt, .st] s s.tick :=
  ((kept_setDt s _).mono (by simp)).trans ((kept_setSt _ _).mono (by simp))

theorem kept_raise (s : State) (f : Fault) (a : Word) (w : Option Word) : KeptExcept [.pc, .status] s (s.raise f a w) := by
  rcases raise_cases s f a w with ⟨_, _, h⟩ | ⟨_, h⟩ <;> rw [h]
  · exact (kept_setPc s _).mono (by simp)
  · exact ((kept_setPc s _).mono (by simp)).trans ((kept_setStatus _ _).mono (by simp))

theorem kept_bumpI (s : State) (x : Reg) : KeptExcept [.i] s (s.bumpI x) := by
  unfold State.bumpI; split
  · exact kept_setI s _
  · exact .refl _ s

/-- I after a bulk transfer (48_bcd_bulk.md R181, R182). -/
theorem bumpI_i (s : State) (x : Reg) :
    (s.bumpI x).i = if s.cfg.loadStoreInc then zext16 (s.ea (x.val + 1)) else s.i := by
  unfold State.bumpI; split <;> rfl

theorem ea_nodup (s : State) (x : Reg) : ((regsUpTo x).map fun r : Reg => s.ea r.val).Nodup :=
  List.Nodup.map_on (fun _ _ _ _ h => Fin.ext (ea_injective s (by omega) (by omega) h)) (regsUpTo_nodup x)

/-- FX55's stores: V[r] at m12(I + r) for each r up to X, every other byte as it was. -/
theorem byteAt_storeRegs (s : State) (x : Reg) (c : Nat) :
    (∀ r ≤ x, c = (s.ea r.val).toNat → (s.storeRegs (regsUpTo x)).byteAt c = s.reg r) ∧
      ((∀ r ≤ x, c ≠ (s.ea r.val).toNat) → (s.storeRegs (regsUpTo x)).byteAt c = s.byteAt c) := by
  have h := byteAt_foldl_writeByte (fun r : Reg => s.ea r.val) s.reg (regsUpTo x) s c (ea_nodup s x)
  exact ⟨fun r hr => h.1 r ((mem_regsUpTo x r).2 hr), fun k => h.2 fun r hr => k r ((mem_regsUpTo x r).1 hr)⟩

theorem kept_storeRegs (s : State) (x : Reg) :
    KeptExcept ((regsUpTo x).map fun r => .byte (s.ea r.val).toNat) s (s.storeRegs (regsUpTo x)) := by
  obtain ⟨m, hm, _⟩ := foldl_writeByte_mem (fun r : Reg => s.ea r.val) s.reg (regsUpTo x) s
  have hs : s.storeRegs (regsUpTo x) = { s with mem := m } := hm
  intro p hp
  cases p with
  | byte a =>
    refine (byteAt_storeRegs s x a).2 fun r hr e => hp ?_
    exact List.mem_map.2 ⟨r, (mem_regsUpTo x r).2 hr, by rw [e]⟩
  | inputs => rw [hs]; exact ⟨rfl, rfl⟩
  | _ => rw [hs]; rfl

theorem storeRegs_wf (s : State) (x : Reg) (h : Memory.wf s.fb s.mem) :
    Memory.wf s.fb (s.storeRegs (regsUpTo x)).mem := by
  obtain ⟨m, hm, hw⟩ := foldl_writeByte_mem (fun r : Reg => s.ea r.val) s.reg (regsUpTo x) s
  have hs : s.storeRegs (regsUpTo x) = { s with mem := m } := hm
  rw [hs]; exact hw h

/-- FX65's loads: the byte at m12(I + r) in V[r] for each r up to X, every other register as it was. -/
theorem reg_loadRegs (s : State) (x y : Reg) :
    (s.loadRegs (regsUpTo x)).reg y = if y ≤ x then s.readByte (s.ea y.val) else s.reg y := by
  have h := reg_foldl_setReg (fun r : Reg => s.readByte (s.ea r.val)) (regsUpTo x) s y
  simp only [mem_regsUpTo] at h
  exact h

theorem kept_loadRegs (s : State) (x : Reg) :
    KeptExcept ((regsUpTo x).map .reg) s (s.loadRegs (regsUpTo x)) := by
  obtain ⟨v, hv⟩ := foldl_setReg_v (fun r : Reg => s.readByte (s.ea r.val)) (regsUpTo x) s
  have hs : s.loadRegs (regsUpTo x) = { s with v := v } := hv
  intro p hp
  cases p with
  | reg y =>
    refine (reg_loadRegs s x y).trans (if_neg fun h => hp ?_)
    exact List.mem_map.2 ⟨y, (mem_regsUpTo x y).2 h, rfl⟩
  | inputs => rw [hs]; exact ⟨rfl, rfl⟩
  | _ => rw [hs]; rfl

end Sys2Proof.Machine
end

