-- ==== Sys2Proof/Laws/PerInstr.lean ====
section
/-!
SUPPORT. Sys2Proof/Laws/PerInstr.lean: one lemma per instruction: its word has the fixed bits of its row of the opcode table
(30_encoding.md R75 "w & mask = match", R78).
-/
namespace Sys2Proof

theorem wordA_mask (op : BitVec 4) (a : Addr) : wordA op a &&& 0xF000#16 = wordA op 0 := by
  refine BitVec.eq_of_getLsbD_eq fun k hk => ?_
  rw [BitVec.getLsbD_and, wordA_bit, wordA_bit]
  interval_cases k <;> simp

theorem wordXI_mask (op : BitVec 4) (x : Reg) (nn : Byte) : wordXI op x nn &&& 0xF000#16 = wordXI op 0 0 := by
  refine BitVec.eq_of_getLsbD_eq fun k hk => ?_
  rw [BitVec.getLsbD_and, wordXI_bit, wordXI_bit]
  interval_cases k <;> simp [nibble]

theorem wordXI_maskS (op : BitVec 4) (x : Reg) (nn : Byte) : wordXI op x nn &&& 0xF0FF#16 = wordXI op 0 nn := by
  refine BitVec.eq_of_getLsbD_eq fun k hk => ?_
  rw [BitVec.getLsbD_and, wordXI_bit, wordXI_bit]
  interval_cases k <;> simp [nibble]

theorem wordXY_mask (op : BitVec 4) (x y : Reg) (n : Fin 16) : wordXY op x y n &&& 0xF00F#16 = wordXY op 0 0 n := by
  refine BitVec.eq_of_getLsbD_eq fun k hk => ?_
  rw [BitVec.getLsbD_and, wordXY_bit, wordXY_bit]
  interval_cases k <;> simp [nibble]

theorem wordXYN_mask (op : BitVec 4) (x y : Reg) (n : Fin 16) : wordXY op x y n &&& 0xF000#16 = wordXY op 0 0 0 := by
  refine BitVec.eq_of_getLsbD_eq fun k hk => ?_
  rw [BitVec.getLsbD_and, wordXY_bit, wordXY_bit]
  interval_cases k <;> simp [nibble]

namespace Laws.RowMatch

/-- The word of `i` has the fixed bits of its row. -/
def Statement (i : Instr) : Prop := encodeWord i &&& (encRow i).mask = (encRow i).pat

theorem sys (nnn : Addr) : Statement (.sys nnn) := wordA_mask _ _
theorem cls : Statement (.cls) := rfl
theorem ret : Statement (.ret) := rfl
theorem jp (nnn : Addr) : Statement (.jp nnn) := wordA_mask _ _
theorem call (nnn : Addr) : Statement (.call nnn) := wordA_mask _ _
theorem seImm (x : Reg) (nn : Byte) : Statement (.seImm x nn) := wordXI_mask _ _ _
theorem sneImm (x : Reg) (nn : Byte) : Statement (.sneImm x nn) := wordXI_mask _ _ _
theorem seReg (x : Reg) (y : Reg) : Statement (.seReg x y) := wordXY_mask _ _ _ _
theorem ldImm (x : Reg) (nn : Byte) : Statement (.ldImm x nn) := wordXI_mask _ _ _
theorem addImm (x : Reg) (nn : Byte) : Statement (.addImm x nn) := wordXI_mask _ _ _
theorem ldReg (x : Reg) (y : Reg) : Statement (.ldReg x y) := wordXY_mask _ _ _ _
theorem orReg (x : Reg) (y : Reg) : Statement (.orReg x y) := wordXY_mask _ _ _ _
theorem andReg (x : Reg) (y : Reg) : Statement (.andReg x y) := wordXY_mask _ _ _ _
theorem xorReg (x : Reg) (y : Reg) : Statement (.xorReg x y) := wordXY_mask _ _ _ _
theorem addReg (x : Reg) (y : Reg) : Statement (.addReg x y) := wordXY_mask _ _ _ _
theorem sub (x : Reg) (y : Reg) : Statement (.sub x y) := wordXY_mask _ _ _ _
theorem shr (x : Reg) (y : Reg) : Statement (.shr x y) := wordXY_mask _ _ _ _
theorem subn (x : Reg) (y : Reg) : Statement (.subn x y) := wordXY_mask _ _ _ _
theorem shl (x : Reg) (y : Reg) : Statement (.shl x y) := wordXY_mask _ _ _ _
theorem sneReg (x : Reg) (y : Reg) : Statement (.sneReg x y) := wordXY_mask _ _ _ _
theorem ldI (nnn : Addr) : Statement (.ldI nnn) := wordA_mask _ _
theorem jpOff (nnn : Addr) : Statement (.jpOff nnn) := wordA_mask _ _
theorem rnd (x : Reg) (nn : Byte) : Statement (.rnd x nn) := wordXI_mask _ _ _
theorem drw (x : Reg) (y : Reg) (n : Fin 16) : Statement (.drw x y n) := wordXYN_mask _ _ _ _
theorem skp (x : Reg) : Statement (.skp x) := wordXI_maskS _ _ _
theorem sknp (x : Reg) : Statement (.sknp x) := wordXI_maskS _ _ _
theorem ldFromDt (x : Reg) : Statement (.ldFromDt x) := wordXI_maskS _ _ _
theorem ldKey (x : Reg) : Statement (.ldKey x) := wordXI_maskS _ _ _
theorem ldDt (x : Reg) : Statement (.ldDt x) := wordXI_maskS _ _ _
theorem ldSt (x : Reg) : Statement (.ldSt x) := wordXI_maskS _ _ _
theorem addI (x : Reg) : Statement (.addI x) := wordXI_maskS _ _ _
theorem ldFont (x : Reg) : Statement (.ldFont x) := wordXI_maskS _ _ _
theorem bcd (x : Reg) : Statement (.bcd x) := wordXI_maskS _ _ _
theorem store (x : Reg) : Statement (.store x) := wordXI_maskS _ _ _
theorem load (x : Reg) : Statement (.load x) := wordXI_maskS _ _ _

end Laws.RowMatch

end Sys2Proof
end

