-- ==== Sys2Proof/Laws/Pixels.lean ====
section
/-!
SUPPORT. Sys2Proof/Laws/Pixels.lean: what drawing a sprite does, said once (46_display.md R162): its pixels inverted, each once, the
others as they were, and a hit where one of them was lit.
-/
namespace Sys2Proof.Machine

/-- One sprite bit: its pixel inverted where the bit is 1, no other pixel changed (46_display.md R162). -/
theorem blitBit_pixel (acc : Blit) (y y' : Fin 32) (x x' : Fin 64) (bit : Bool) :
    (blitBit acc y x bit).1.pixel y' x' = if y' = y ∧ x' = x ∧ bit = true then !acc.1.pixel y' x' else acc.1.pixel y' x' := by
  unfold blitBit
  cases bit with
  | false => simp
  | true =>
    simp only [if_true, pixel_flip, and_true]
    split
    · next h => rw [h.1, h.2]
    · rfl

/-- One sprite bit hits where it is 1 and its pixel was lit. -/
theorem blitBit_hit (acc : Blit) (y : Fin 32) (x : Fin 64) (bit : Bool) :
    (blitBit acc y x bit).2 = (acc.2 || (bit && acc.1.pixel y x)) := by
  cases bit <;> simp [blitBit]

/-- What drawing a set of pixels, each once, leaves: those inverted, the others as they were, and a hit where one was lit. -/
structure Drew (S : Fin 32 → Fin 64 → Prop) (acc res : Blit) : Prop where
  inside : ∀ y x, S y x → res.1.pixel y x = !acc.1.pixel y x
  outside : ∀ y x, ¬ S y x → res.1.pixel y x = acc.1.pixel y x
  hit : res.2 = true ↔ acc.2 = true ∨ ∃ y x, S y x ∧ acc.1.pixel y x = true

theorem Drew.congr {S T : Fin 32 → Fin 64 → Prop} {acc res : Blit} (h : Drew S acc res) (e : ∀ y x, S y x ↔ T y x) :
    Drew T acc res := by
  have : S = T := funext fun y => funext fun x => propext (e y x)
  exact this ▸ h

/-- Two draws over disjoint pixels are one draw over both. -/
theorem Drew.trans {S T : Fin 32 → Fin 64 → Prop} {a b c : Blit} (h : Drew S a b) (k : Drew T b c)
    (dis : ∀ y x, S y x → ¬ T y x) : Drew (fun y x => S y x ∨ T y x) a c := by
  refine ⟨fun y x hs => ?_, fun y x hs => ?_, ?_⟩
  · rcases hs with hs | ht
    · rw [k.outside y x (dis y x hs), h.inside y x hs]
    · rw [k.inside y x ht, h.outside y x fun hs => dis y x hs ht]
  · rw [k.outside y x fun h => hs (.inr h), h.outside y x fun h => hs (.inl h)]
  · rw [k.hit, h.hit]
    constructor
    · rintro ((h0 | ⟨y, x, hs, hp⟩) | ⟨y, x, ht, hp⟩)
      · exact .inl h0
      · exact .inr ⟨y, x, .inl hs, hp⟩
      · exact .inr ⟨y, x, .inr ht, by rwa [h.outside y x fun hs => dis y x hs ht] at hp⟩
    · rintro (h0 | ⟨y, x, hs | ht, hp⟩)
      · exact .inl (.inl h0)
      · exact .inl (.inr ⟨y, x, hs, hp⟩)
      · exact .inr ⟨y, x, ht, by rwa [h.outside y x fun hs => dis y x hs ht]⟩

theorem Drew.nil (acc : Blit) : Drew (fun _ _ => False) acc acc := ⟨fun _ _ h => h.elim, fun _ _ _ => rfl, by simp⟩

/-- A fold whose k-th pass draws the pixels `S k`, the passes disjoint, draws their union. -/
theorem Drew.fold (f : Blit → Nat → Blit) (S : Nat → Fin 32 → Fin 64 → Prop) (n : Nat)
    (pass : ∀ acc k, k < n → Drew (S k) acc (f acc k))
    (dis : ∀ j k, j < k → k < n → ∀ y x, S j y x → ¬ S k y x) (acc : Blit) :
    Drew (fun y x => ∃ k < n, S k y x) acc ((List.range n).foldl f acc) := by
  induction n with
  | zero => exact (Drew.nil acc).congr (by simp)
  | succ n ih =>
    rw [List.range_succ, List.foldl_append]
    have h := ih (fun acc k hk => pass acc k (by omega)) (fun j k hj hk => dis j k hj (by omega))
    refine (h.trans (pass _ n (by omega)) ?_).congr fun y x => ?_
    · rintro y x ⟨k, hk, hs⟩
      exact dis k n hk (by omega) y x hs
    · constructor
      · rintro (⟨k, hk, hs⟩ | hs)
        · exact ⟨k, by omega, hs⟩
        · exact ⟨n, by omega, hs⟩
      · rintro ⟨k, hk, hs⟩
        rcases Nat.lt_succ_iff_lt_or_eq.1 hk with hk | rfl
        · exact .inl ⟨k, hk, hs⟩
        · exact .inr hs

/-- `place` keeps offsets of less than the axis apart. -/
theorem place_inj {wrap : Bool} {size p j k q : Nat} (hp : p < size) (hj : j < size) (hk : k < size)
    (h : place wrap size (p + j) = some q) (h' : place wrap size (p + k) = some q) : j = k := by
  unfold place at h h'
  have red : ∀ {m}, m < 2 * size → size ≤ m → m % size = m - size := fun h1 h2 => by
    rw [Nat.mod_eq_sub_mod h2, Nat.mod_eq_of_lt (by omega)]
  cases wrap <;> simp only [if_true, Bool.false_eq_true, if_false] at h h' <;> split at h <;> split at h' <;> simp at h h'
  · omega
  · omega
  · rw [red (by omega) (by omega)] at h'; omega
  · rw [red (by omega) (by omega)] at h; omega
  · rw [red (by omega) (by omega)] at h h'; omega

theorem place_lt {wrap : Bool} {size p q : Nat} (hs : 0 < size) (h : place wrap size p = some q) : q < size := by
  unfold place at h
  split at h
  · simp at h; omega
  · split at h
    · simp at h; rw [← h]; exact Nat.mod_lt _ hs
    · simp at h

theorem placeX_eq (wrap : Bool) (p : Nat) (x : Fin 64) : placeX wrap p = some x ↔ place wrap 64 p = some x.val := by
  unfold placeX
  cases h : place wrap 64 p with
  | none => simp
  | some q =>
    have := place_lt (by omega) h
    simp only [Option.map_some, Option.some.injEq, Fin.ext_iff, Fin.ofNat]
    rw [Nat.mod_eq_of_lt this]

theorem placeY_eq (wrap : Bool) (p : Nat) (y : Fin 32) : placeY wrap p = some y ↔ place wrap 32 p = some y.val := by
  unfold placeY
  cases h : place wrap 32 p with
  | none => simp
  | some q =>
    have := place_lt (by omega) h
    simp only [Option.map_some, Option.some.injEq, Fin.ext_iff, Fin.ofNat]
    rw [Nat.mod_eq_of_lt this]

/-- One sprite row draws, in its row, the columns its 1 bits land in. -/
theorem blitRow_drew (wrap : Bool) (x0 : Nat) (y : Fin 32) (b : Byte) (acc : Blit) (hx : x0 < 64) :
    Drew (fun yy xx => ∃ c < 8, yy = y ∧ place wrap 64 (x0 + c) = some xx.val ∧ spriteBit b c = true) acc
      (blitRow wrap x0 y b acc) := by
  refine Drew.fold _ (fun c yy xx => yy = y ∧ place wrap 64 (x0 + c) = some xx.val ∧ spriteBit b c = true) 8
    (fun acc c hc => ?_) (fun j k hj hk yy xx h h' => ?_) acc
  · cases h : placeX wrap (x0 + c) with
    | none =>
      refine (Drew.nil acc).congr fun yy xx => iff_of_false id ?_
      rintro ⟨_, h', _⟩
      rw [← placeX_eq, h] at h'; cases h'
    | some x =>
      have hpl := (placeX_eq wrap _ x).1 h
      have key : ∀ yy xx, (yy = y ∧ place wrap 64 (x0 + c) = some xx.val ∧ spriteBit b c = true) ↔
          (yy = y ∧ xx = x ∧ spriteBit b c = true) := fun yy xx => by
        rw [hpl, Option.some.injEq, eq_comm (a := x.val), ← Fin.ext_iff]
      refine ⟨fun yy xx hs => ?_, fun yy xx hs => ?_, ?_⟩
      · rw [blitBit_pixel, if_pos ((key yy xx).1 hs)]
      · rw [blitBit_pixel, if_neg fun e => hs ((key yy xx).2 e)]
      · rw [blitBit_hit]
        simp only [key, Bool.or_eq_true, Bool.and_eq_true]
        constructor
        · rintro (h0 | ⟨hb, hp⟩)
          · exact .inl h0
          · exact .inr ⟨y, x, ⟨rfl, rfl, hb⟩, hp⟩
        · rintro (h0 | ⟨_, _, ⟨hy, hx, hb⟩, hp⟩)
          · exact .inl h0
          · exact .inr ⟨hb, hy ▸ hx ▸ hp⟩
  · exact absurd (place_inj hx (by omega) (by omega) h.2.1 h'.2.1) (by omega)

/-- A sprite draws the pixels its 1 bits land on, each once. -/
theorem blitSprite_drew (wrap : Bool) (x0 y0 n : Nat) (rows : Nat → Byte) (acc : Blit) (hx : x0 < 64) (hy : y0 < 32)
    (hn : n ≤ 16) :
    Drew (fun yy xx => ∃ r < n, place wrap 32 (y0 + r) = some yy.val ∧
      ∃ c < 8, place wrap 64 (x0 + c) = some xx.val ∧ spriteBit (rows r) c = true) acc
      (blitSprite wrap x0 y0 n rows acc) := by
  refine Drew.fold _ (fun r yy xx => place wrap 32 (y0 + r) = some yy.val ∧
    ∃ c < 8, place wrap 64 (x0 + c) = some xx.val ∧ spriteBit (rows r) c = true) n
    (fun acc r hr => ?_) (fun j k hj hk yy xx h h' => ?_) acc
  · cases h : placeY wrap (y0 + r) with
    | none =>
      refine (Drew.nil acc).congr fun yy xx => iff_of_false id ?_
      rintro ⟨h', _⟩
      rw [← placeY_eq, h] at h'; cases h'
    | some y =>
      refine (blitRow_drew wrap x0 y (rows r) acc hx).congr fun yy xx => ?_
      rw [(placeY_eq wrap _ y).1 h]
      simp only [Option.some.injEq, Fin.ext_iff]
      constructor
      · rintro ⟨c, hc, e, p, s⟩; exact ⟨e.symm, c, hc, p, s⟩
      · rintro ⟨e, c, hc, p, s⟩; exact ⟨c, hc, e.symm, p, s⟩
  · exact absurd (place_inj hy (by omega) (by omega) h.1 h'.1) (by omega)

/-- Where `place` lands is where the claims' `Lands` says. -/
theorem place_iff_lands (wrap : Bool) {size p q : Nat} (hq : q < size) :
    place wrap size p = some q ↔ Lands wrap size p q := by
  unfold place Lands
  by_cases h : p < size
  · cases wrap <;> simp [h, Nat.mod_eq_of_lt h]
  · cases wrap
    · simp only [h, if_false, Bool.false_eq_true]
      exact iff_of_false (by simp) (by omega)
    · simp [h]

/-- DXYN draws the pixels its sprite covers. -/
theorem draw_drew (s : State) (x y : Reg) (n : Fin 16) : Drew (s.Covers x y n) (s.display, false) (s.draw x y n) := by
  refine (blitSprite_drew s.cfg.spriteWrap _ _ n.val _ (s.display, false) (Nat.mod_lt _ (by omega))
    (Nat.mod_lt _ (by omega)) (by omega)).congr fun yy xx => ?_
  simp only [place_iff_lands _ yy.isLt, place_iff_lands _ xx.isLt, State.Covers, spriteBit]
  constructor
  · rintro ⟨r, hr, hy, c, hc, hx, hb⟩; exact ⟨r, hr, c, hc, hb, hy, hx⟩
  · rintro ⟨r, hr, c, hc, hb, hy, hx⟩; exact ⟨r, hr, hy, c, hc, hx, hb⟩

end Sys2Proof.Machine
end

