-- ==== Sys2Proof/Laws/Step.lean ====
section
/-!
SUPPORT. Sys2Proof/Laws/Step.lean: the one list of everything a step can do (60_exceptions.md R217, 40_cycle.md R91), from which
statements about every step are derived, and the same list read forwards.
-/
namespace Sys2Proof.Machine

/-- What a step does from `s`, by the situation it finds, in the priority of 60_exceptions.md R210. -/
inductive StepCase (s : State) : State → Prop where
  /-- The driver has stopped: nothing (R220). -/
  | idle (h : s.status ≠ .running) : StepCase s s
  /-- The frame has no slot left: its end (R217). -/
  | frameEnd (hr : s.status = .running) (hp : ¬ s.phase < s.cfg.cyclesPerFrame) : StepCase s s.frameEnd
  /-- A cycle that finds the shutdown request (R227). -/
  | shutdown (hr : s.status = .running) (hp : s.phase < s.cfg.cyclesPerFrame) (hs : s.input.shutdown = true) :
      StepCase s (s.setStatus .stopped).endSlot
  /-- A waiting cycle (R95). -/
  | waiting (h : s.Ready) (r : Reg) (hw : s.wait = some r) : StepCase s (s.waitingCycle r).endSlot
  /-- A fetch out of range (R92, R201). -/
  | fetchFault (h : s.Ready) (hw : s.wait = none) (hf : s.fetch = none) :
      StepCase s (s.raise .outOfBoundsAddress s.pc none).endSlot
  /-- An unknown word (R94, R204). -/
  | unknown (w : Word) (h : s.Fetches w) (e : DecodeReject) (hd : decodeWord w = .error e) :
      StepCase s (s.raise .unknownInstruction s.pc (some w)).endCycle.endSlot
  /-- An instruction (R94). -/
  | run (w : Word) (h : s.Fetches w) (i : Instr) (hd : decodeWord w = .ok i) (u : State)
      (he : exec i s.advance = .next u) : StepCase s u.endCycle.endSlot

/-- Every step is one of the cases. -/
theorem step_cases {s t : State} (h : step s = .next t) : StepCase s t := by
  unfold step State.driverStep at h
  by_cases hr : s.status = .running
  · rw [if_pos hr] at h
    by_cases hp : s.phase < s.cfg.cyclesPerFrame
    · rw [if_pos hp] at h
      unfold State.cycle at h
      cases hs : s.input.shutdown with
      | true =>
        rw [if_pos hs] at h
        injection h with h
        exact h ▸ .shutdown hr hp hs
      | false =>
        rw [if_neg (by simp [hs])] at h
        have ready : s.Ready := ⟨hr, hp, hs⟩
        cases hw : s.wait with
        | some r =>
          rw [hw] at h
          injection h with h
          exact h ▸ .waiting ready r hw
        | none =>
          rw [hw] at h
          cases hf : s.fetch with
          | none =>
            rw [hf] at h
            injection h with h
            exact h ▸ .fetchFault ready hw hf
          | some w =>
            rw [hf] at h
            simp only [State.runWord] at h
            cases hd : decodeWord w with
            | error e =>
              rw [hd] at h
              injection h with h
              exact h ▸ .unknown w ⟨ready, hw, hf⟩ e hd
            | ok i =>
              obtain ⟨u, hu, _⟩ := exec_next i s.advance
              rw [hd] at h
              simp only [hu] at h
              injection h with h
              exact h ▸ .run w ⟨ready, hw, hf⟩ i hd u hu
    · rw [if_neg hp] at h
      injection h with h
      exact h ▸ .frameEnd hr hp
  · rw [if_neg hr] at h
    injection h with h
    exact h ▸ .idle hr

/-- Every case is a step. -/
theorem step_of_case {s t : State} (h : StepCase s t) : step s = .next t := by
  unfold step State.driverStep
  cases h with
  | idle h => rw [if_neg h]
  | frameEnd hr hp => rw [if_pos hr, if_neg hp]
  | shutdown hr hp hs => rw [if_pos hr, if_pos hp]; simp [State.cycle, hs]
  | waiting h r hw => rw [if_pos h.running, if_pos h.slot]; simp [State.cycle, h.noShutdown, hw]
  | fetchFault h hw hf => rw [if_pos h.running, if_pos h.slot]; simp [State.cycle, h.noShutdown, hw, hf]
  | unknown w h e hd =>
    rw [if_pos h.ready.running, if_pos h.ready.slot]
    simp [State.cycle, h.ready.noShutdown, h.noWait, h.fetched, State.runWord, hd]
  | run w h i hd u he =>
    rw [if_pos h.ready.running, if_pos h.ready.slot]
    simp [State.cycle, h.ready.noShutdown, h.noWait, h.fetched, State.runWord, hd, he]

end Sys2Proof.Machine
end

