-- ==== Sys2Proof/Laws/Writes.lean ====
section
/-!
SUPPORT. Sys2Proof/Laws/Writes.lean: said once for all instructions, the parts of the state each can write; every "only these
instructions change this" is read off the list.
-/
namespace Sys2Proof.Machine

/-- The parts of the state that `exec i` can write in state `s`. -/
def writes (i : Instr) (s : State) : List Part :=
  match i with
  | .sys _ => [.pc, .status]
  | .cls => [.display]
  | .ret => if 0 < s.sp.val then [.sp, .pc] else [.pc, .status]
  | .jp _ => [.pc]
  | .call _ => if h : s.sp.val < 16 then [.entry ⟨s.sp.val, h⟩, .sp, .pc] else [.pc, .status]
  | .seImm _ _ => [.pc]
  | .sneImm _ _ => [.pc]
  | .seReg _ _ => [.pc]
  | .ldImm x _ => [.reg x]
  | .addImm x _ => [.reg x]
  | .ldReg x _ => [.reg x]
  | .orReg x _ => [.reg x]
  | .andReg x _ => [.reg x]
  | .xorReg x _ => [.reg x]
  | .addReg x _ => [.reg x, .reg 15]
  | .sub x _ => [.reg x, .reg 15]
  | .shr x _ => [.reg x, .reg 15]
  | .subn x _ => [.reg x, .reg 15]
  | .shl x _ => [.reg x, .reg 15]
  | .sneReg _ _ => [.pc]
  | .ldI _ => [.i]
  | .jpOff _ => [.pc]
  | .rnd x _ => [.reg x]
  | .drw _ _ _ => [.display, .reg 15]
  | .skp _ => [.pc]
  | .sknp _ => [.pc]
  | .ldFromDt x => [.reg x]
  | .ldKey _ => [.wait]
  | .ldDt _ => [.dt]
  | .ldSt _ => [.st]
  | .addI _ => if s.cfg.addiOverflow then [.i, .reg 15] else [.i]
  | .ldFont _ => [.i]
  | .bcd _ => [.byte (s.ea 0).toNat, .byte (s.ea 1).toNat, .byte (s.ea 2).toNat]
  | .store x => .i :: (regsUpTo x).map fun r => .byte (s.ea r.val).toNat
  | .load x => .i :: (regsUpTo x).map .reg

theorem kept_skipIf (s : State) (c : Bool) : KeptExcept [.pc] s (s.skipIf c) := by
  rw [skipIf_eq]; exact kept_setPc s _

/-- An instruction changes no part of the state outside `writes`. -/
theorem exec_kept (i : Instr) (s t : State) (h : exec i s = .next t) : KeptExcept (writes i s) s t := by
  have from' : ∀ {u}, exec i s = .next u → KeptExcept (writes i s) s u → KeptExcept (writes i s) s t :=
    fun hu k => by rw [hu] at h; injection h with h; exact h ▸ k
  cases i with
  | sys nnn => exact from' rfl (kept_raise s _ _ _)
  | cls => exact from' rfl (kept_setDisplay s _)
  | ret =>
    by_cases hs : 0 < s.sp.val
    · obtain ⟨n, hp, _⟩ := pop_spec s hs
      refine from' (exec_ret_ok s _ _ hp) ?_
      intro p hq
      simp only [writes, if_pos hs] at hq
      cases p <;> first | rfl | exact ⟨rfl, rfl⟩ | exact absurd hq (by simp)
    · refine from' (exec_ret_empty s (by omega)) ?_
      simp only [writes, if_neg hs]; exact kept_raise s _ _ _
  | call nnn =>
    by_cases hs : s.sp.val < 16
    · obtain ⟨k, n, hp, _, hk⟩ := push_spec s s.pc hs
      refine from' (exec_call_ok nnn s _ hp) ?_
      intro p hq
      simp only [writes, dif_pos hs] at hq
      cases p with
      | entry j => exact (hk j).trans (if_neg fun e => hq (by simp [Fin.ext_iff, e]))
      | _ => first | rfl | exact ⟨rfl, rfl⟩ | exact absurd hq (by simp)
    · refine from' (exec_call_full nnn s (by omega)) ?_
      simp only [writes, dif_neg hs]; exact kept_raise s _ _ _
  | jp nnn => exact from' rfl (kept_setPc s _)
  | jpOff nnn => exact from' rfl (kept_setPc s _)
  | seImm x nn => exact from' rfl (kept_skipIf s _)
  | sneImm x nn => exact from' rfl (kept_skipIf s _)
  | seReg x y => exact from' rfl (kept_skipIf s _)
  | sneReg x y => exact from' rfl (kept_skipIf s _)
  | skp x => exact from' rfl (kept_skipIf s _)
  | sknp x => exact from' rfl (kept_skipIf s _)
  | ldImm x nn => exact from' rfl (kept_setReg s _ _)
  | addImm x nn => exact from' rfl (kept_setReg s _ _)
  | ldReg x y => exact from' rfl (kept_setReg s _ _)
  | orReg x y => exact from' rfl (kept_setReg s _ _)
  | andReg x y => exact from' rfl (kept_setReg s _ _)
  | xorReg x y => exact from' rfl (kept_setReg s _ _)
  | rnd x nn => exact from' rfl (kept_setReg s _ _)
  | ldFromDt x => exact from' rfl (kept_setReg s _ _)
  | addReg x y => exact from' rfl (kept_setRegFlag s _ _ _)
  | sub x y => exact from' rfl (kept_setRegFlag s _ _ _)
  | shr x y => exact from' rfl (kept_setRegFlag s _ _ _)
  | subn x y => exact from' rfl (kept_setRegFlag s _ _ _)
  | shl x y => exact from' rfl (kept_setRegFlag s _ _ _)
  | ldI nnn => exact from' rfl (kept_setI s _)
  | ldFont x => exact from' rfl (kept_setI s _)
  | addI x =>
    refine from' rfl ?_
    cases hc : s.cfg.addiOverflow with
    | true =>
      simp only [writes, hc, if_true]
      exact ((kept_setI s _).mono (by simp)).trans ((kept_setReg _ regF _).mono (by simp))
    | false => simp only [writes, hc]; exact kept_setI s _
  | drw x y n =>
    exact from' rfl (((kept_setDisplay s _).mono (by simp [writes])).trans ((kept_setReg _ regF _).mono (by simp [writes])))
  | ldKey x => exact from' rfl (kept_setWait s _)
  | ldDt x => exact from' rfl (kept_setDt s _)
  | ldSt x => exact from' rfl (kept_setSt s _)
  | bcd x =>
    refine from' rfl ?_
    exact (((kept_writeByte s _ _).mono (by simp [writes])).trans ((kept_writeByte _ _ _).mono (by simp [writes]))).trans
      ((kept_writeByte _ _ _).mono (by simp [writes]))
  | store x =>
    exact from' rfl (((kept_storeRegs s x).mono fun p hp => List.mem_cons_of_mem _ hp).trans
      ((kept_bumpI _ x).mono (by simp)))
  | load x =>
    exact from' rfl (((kept_loadRegs s x).mono fun p hp => List.mem_cons_of_mem _ hp).trans
      ((kept_bumpI _ x).mono (by simp)))

/-- What an instruction does to the run status: nothing, or a raise by one of the three instructions that can, which puts pc back
and records the fault (40_cycle.md R97). -/
theorem exec_status {i : Instr} {s t : State} (h : exec i s = .next t) :
    t.status = s.status ∨ ∃ f, t = (s.setPc (s.pc - 2)).setStatus (.halted f (s.pc - 2) (some (encodeWord i))) ∧
      ((f = .stackOverflow ∧ s.sp.val = 16 ∧ ∃ nnn, i = .call nnn) ∨ (f = .stackUnderflow ∧ s.sp.val = 0 ∧ i = .ret) ∨
        (f = .unknownInstruction ∧ s.cfg.unknownPolicy = .fatal ∧ ∃ nnn, i = .sys nnn)) := by
  have quiet : Part.status ∉ writes i s → t.status = s.status := fun hw => exec_kept i s t h .status hw
  cases i with
  | sys nnn =>
    injection h with h; subst h
    unfold State.raiseInHandler
    rcases raise_cases s .unknownInstruction (s.pc - 2) (some (encodeWord (.sys nnn))) with ⟨_, _, e⟩ | ⟨hf, e⟩
    · exact .inl (by rw [e]; rfl)
    · exact .inr ⟨_, e, .inr (.inr ⟨rfl, hf.resolve_left (by simp), _, rfl⟩)⟩
  | ret =>
    by_cases hs : s.sp.val = 0
    · rw [exec_ret_empty s hs] at h; injection h with h; subst h
      exact .inr ⟨_, raise_halts _ _ _ (by simp), .inr (.inl ⟨rfl, hs, rfl⟩)⟩
    · exact .inl (quiet (by simp only [writes, if_pos (Nat.pos_of_ne_zero hs)]; simp))
  | call nnn =>
    by_cases hs : s.sp.val < 16
    · exact .inl (quiet (by simp only [writes, dif_pos hs]; simp))
    · rw [exec_call_full nnn s (by omega)] at h; injection h with h; subst h
      exact .inr ⟨_, raise_halts _ _ _ (by simp), .inl ⟨rfl, by omega, _, rfl⟩⟩
  | addI x => exact .inl (quiet (by simp only [writes]; split <;> simp))
  | _ => exact .inl (quiet (by simp [writes]))

/-- Every instruction keeps memory in its canonical form. -/
theorem exec_wf (i : Instr) (s t : State) (h : exec i s = .next t) (hw : Memory.wf s.fb s.mem) :
    Memory.wf t.fb t.mem := by
  have from' : ∀ {u}, exec i s = .next u → u.mem = s.mem → u.cfg = s.cfg → Memory.wf t.fb t.mem := fun hu hm hc => by
    rw [hu] at h; injection h with h; subst h; unfold State.fb; rw [hm, hc]; exact hw
  cases i with
  | bcd x =>
    injection h with h; subst h
    exact writeByte_wf _ _ _ (writeByte_wf _ _ _ (writeByte_wf s _ _ hw))
  | store x =>
    injection h with h; subst h
    obtain ⟨m, hm, hwm⟩ := foldl_writeByte_mem (fun r : Reg => s.ea r.val) s.reg (regsUpTo x) s
    have hs : s.storeRegs (regsUpTo x) = { s with mem := m } := hm
    rw [hs]; unfold State.bumpI; split <;> exact hwm hw
  | load x =>
    obtain ⟨v, hv⟩ := foldl_setReg_v (fun r : Reg => s.readByte (s.ea r.val)) (regsUpTo x) s
    have hs : s.loadRegs (regsUpTo x) = { s with v := v } := hv
    refine from' rfl ?_ ?_ <;> rw [hs] <;> unfold State.bumpI <;> split <;> rfl
  | call nnn =>
    by_cases hs : s.sp.val < 16
    · obtain ⟨k, n, hp, _⟩ := push_spec s s.pc hs
      exact from' (exec_call_ok nnn s _ hp) rfl rfl
    · exact from' (exec_call_full nnn s (by omega)) rfl rfl
  | ret =>
    by_cases hs : 0 < s.sp.val
    · obtain ⟨n, hp, _⟩ := pop_spec s hs
      exact from' (exec_ret_ok s _ _ hp) rfl rfl
    · exact from' (exec_ret_empty s (by omega)) rfl rfl
  | sys nnn =>
    refine from' rfl ?_ ?_ <;>
      rcases raise_cases s .unknownInstruction (s.pc - 2) (some (encodeWord (.sys nnn))) with ⟨_, _, e⟩ | ⟨_, e⟩ <;>
        unfold State.raiseInHandler <;> rw [e] <;> rfl
  | addI x => refine from' rfl ?_ ?_ <;> split <;> rfl
  | seImm x nn => refine from' rfl ?_ ?_ <;> rw [skipIf_eq] <;> rfl
  | sneImm x nn => refine from' rfl ?_ ?_ <;> rw [skipIf_eq] <;> rfl
  | seReg x y => refine from' rfl ?_ ?_ <;> rw [skipIf_eq] <;> rfl
  | sneReg x y => refine from' rfl ?_ ?_ <;> rw [skipIf_eq] <;> rfl
  | skp x => refine from' rfl ?_ ?_ <;> rw [skipIf_eq] <;> rfl
  | sknp x => refine from' rfl ?_ ?_ <;> rw [skipIf_eq] <;> rfl
  | _ => exact from' rfl rfl rfl

end Sys2Proof.Machine
end

