-- ==== Sys2Proof/Laws/StepWrites.lean ====
section
/-!
SUPPORT. Sys2Proof/Laws/StepWrites.lean: what a whole step can change (60_exceptions.md R217): the driver's own parts, and besides
them the timers at a tick, the awaited register in a key wait, or what the instruction it runs writes.
-/
namespace Sys2Proof.Machine

/-- The parts that the driver itself moves. -/
abbrev driverParts : List Part := [.pc, .status, .kprev, .phase, .inputs]

theorem kept_waitingCycle (s : State) (r : Reg) : KeptExcept [.reg r, .wait, .kprev] s (s.waitingCycle r) := by
  rcases waitingCycle_cases s r with ⟨k, _, e⟩ | ⟨_, e⟩ <;> rw [e]
  · exact (((kept_setReg s _ _).mono (by simp)).trans ((kept_setWait _ _).mono (by simp))).trans
      ((kept_latch _).mono (by simp))
  · exact (kept_latch _).mono (by simp)

theorem kept_frameEnd (s : State) : KeptExcept [.dt, .st, .status, .phase, .inputs] s s.frameEnd := by
  have k : KeptExcept [.dt, .st, .status, .phase, .inputs] s (s.tick.setPhase 0) :=
    ((kept_tick s).mono (by simp)).trans ((kept_setPhase _ _).mono (by simp))
  unfold State.frameEnd
  split
  · split
    · exact ((kept_setStatus s _).mono (by simp)).trans ((kept_consumeInput _).mono (by simp))
    · exact k.trans ((kept_consumeInput _).mono (by simp))
  · exact k

/-- A step of a running engine at the end of a frame, a step that runs no instruction, a waiting cycle, or a step that runs one. -/
theorem step_writes {s t : State} (h : step s = .next t) :
    (s.cfg.cyclesPerFrame ≤ s.phase ∧ KeptExcept ([.dt, .st] ++ driverParts) s t) ∨ KeptExcept driverParts s t ∨
      (∃ r, s.wait = some r ∧ KeptExcept ([.reg r, .wait] ++ driverParts) s t) ∨
      ∃ i, s.Runs i ∧ KeptExcept (writes i s.advance ++ driverParts) s t := by
  have slot : ∀ u : State, KeptExcept driverParts u u.endCycle.endSlot := fun u =>
    ((kept_endCycle u).mono (by simp)).trans ((kept_endSlot _).mono (by simp))
  cases step_cases h with
  | idle => exact .inr (.inl (.refl _ _))
  | frameEnd hr hp => exact .inl ⟨by omega, (kept_frameEnd s).mono (by simp)⟩
  | shutdown =>
    exact .inr (.inl (((kept_setStatus s _).mono (by simp)).trans ((kept_endSlot _).mono (by simp))))
  | waiting _ r hw =>
    exact .inr (.inr (.inl ⟨r, hw, ((kept_waitingCycle s r).mono (by simp)).trans ((kept_endSlot _).mono (by simp))⟩))
  | fetchFault =>
    exact .inr (.inl (((kept_raise s _ _ _).mono (by simp)).trans ((kept_endSlot _).mono (by simp))))
  | unknown => exact .inr (.inl (((kept_raise s _ _ _).mono (by simp)).trans (slot _)))
  | run w hf i hd u he =>
    refine .inr (.inr (.inr ⟨i, ⟨w, hf, hd⟩, ?_⟩))
    exact (((kept_setPc s _).mono (by simp)).trans
      ((exec_kept i _ _ he).mono fun p hp => List.mem_append_left _ hp)).trans
      ((slot _).mono fun p hp => List.mem_append_right _ hp)

/-- The steps of a run, one at a time. -/
theorem runSteps_succ (k : Nat) {s t : State} (h : step s = .next t) : runSteps (k + 1) s = runSteps k t := by
  simp only [runSteps, h]

end Sys2Proof.Machine
end

