-- ==== Sys2Proof/Tests/Slice0.lean ====
section
/-!
SUPPORT. Sys2Proof/Tests/Slice0.lean: checks of the model against the spec's own vectors (95_test_vectors.md, named V-...), words
written out from 30_encoding.md R75, the well-formedness smoke test, and a witness for every statement that has hypotheses.
-/
namespace Sys2Proof.Tests

open Sys2Proof Sys2Proof.Machine

/-! ## Small states -/

/-- The vectors' configuration, every switch off: FONT_BASE = 0x050, Fatal. -/
def off : Config := ⟨false, false, false, false, false, .fatal, 2, 0x50⟩

/-- The same with every switch on. -/
def on : Config := ⟨true, true, true, true, true, .fatal, 2, 0x50⟩

/-- The same as `off` under the Skip policy. -/
def skipping : Config := { off with unknownPolicy := .skip }

/-- One input: keys, random byte, no shutdown. -/
def inp (k : Keys) (r : Byte) : CycleInput := ⟨k, r, false⟩

/-- Power-on with these inputs to come. -/
def start (c : Config) (xs : List CycleInput) : State := (State.powerOn c).schedule xs

/-- Power-on, switches off, one cycle of no keys to come. -/
def s0 : State := start off [inp 0 0]

/-- Power-on, switches on, one cycle of no keys to come. -/
def s1 : State := start on [inp 0 0]

/-- The state after one step that runs the word `w` placed at pc. -/
def after (s : State) (w : Nat) : State :=
  match step (s.withFetchWord 16 w) with
  | .next t => t
  | _ => s

/-- The state after one step. -/
def next (s : State) : State :=
  match step s with
  | .next t => t
  | _ => s

/-- Bytes put in memory from `a` on. -/
def put (s : State) (a : Nat) (bs : List Byte) : State := s.writeImage a bs

/-- A stack of `n` entries `a`. -/
def stacked (s : State) (n : Fin 17) (a : Word) : State := { s with stack := Vector.replicate 16 a, sp := n }

/-! ## Well-formedness -/

theorem test_wf_refuses_sys_cls : (Instr.sys 0x0E0).wf = false := by decide
theorem test_wf_refuses_sys_ret : (Instr.sys 0x0EE).wf = false := by decide
theorem test_wf_admits_neighbours : (Instr.sys 0x0E1).wf = true ∧ (Instr.sys 0xFFF).wf = true := by decide

/-! ## Decoding: every constructor by a word written out from R75 (V-DEC) -/

theorem test_decode_noop_forms :
    decodeWord 0b0000000011100000 = .ok .cls ∧ decodeWord 0b0000000011101110 = .ok .ret ∧
    decodeWord 0b0000000011100001 = .ok (.sys 0x0E1) ∧ decodeWord 0b0000000000000000 = .ok (.sys 0x000) := by decide
theorem test_decode_address_forms :
    decodeWord 0b0001101010111100 = .ok (.jp 0xABC) ∧ decodeWord 0b0010101010111100 = .ok (.call 0xABC) ∧
    decodeWord 0b1010101010111100 = .ok (.ldI 0xABC) ∧ decodeWord 0b1011101010111100 = .ok (.jpOff 0xABC) := by decide
theorem test_decode_immediate_forms :
    decodeWord 0b0011101001111111 = .ok (.seImm 10 0x7F) ∧ decodeWord 0b0100101001111111 = .ok (.sneImm 10 0x7F) ∧
    decodeWord 0b0110101001111111 = .ok (.ldImm 10 0x7F) ∧ decodeWord 0b0111101001111111 = .ok (.addImm 10 0x7F) ∧
    decodeWord 0b1100101001111111 = .ok (.rnd 10 0x7F) := by decide
theorem test_decode_register_forms :
    decodeWord 0b0101101010110000 = .ok (.seReg 10 11) ∧ decodeWord 0b1001101010110000 = .ok (.sneReg 10 11) ∧
    decodeWord 0b1101101010110101 = .ok (.drw 10 11 5) := by decide
theorem test_decode_alu_forms :
    decodeWord 0b1000101010110000 = .ok (.ldReg 10 11) ∧ decodeWord 0b1000101010110001 = .ok (.orReg 10 11) ∧
    decodeWord 0b1000101010110010 = .ok (.andReg 10 11) ∧ decodeWord 0b1000101010110011 = .ok (.xorReg 10 11) ∧
    decodeWord 0b1000101010110100 = .ok (.addReg 10 11) ∧ decodeWord 0b1000101010110101 = .ok (.sub 10 11) ∧
    decodeWord 0b1000101010110110 = .ok (.shr 10 11) ∧ decodeWord 0b1000101010110111 = .ok (.subn 10 11) ∧
    decodeWord 0b1000101010111110 = .ok (.shl 10 11) := by decide
theorem test_decode_key_forms :
    decodeWord 0b1110101010011110 = .ok (.skp 10) ∧ decodeWord 0b1110101010100001 = .ok (.sknp 10) := by decide
theorem test_decode_f_forms :
    decodeWord 0b1111101000000111 = .ok (.ldFromDt 10) ∧ decodeWord 0b1111101000001010 = .ok (.ldKey 10) ∧
    decodeWord 0b1111101000010101 = .ok (.ldDt 10) ∧ decodeWord 0b1111101000011000 = .ok (.ldSt 10) ∧
    decodeWord 0b1111101000011110 = .ok (.addI 10) ∧ decodeWord 0b1111101000101001 = .ok (.ldFont 10) ∧
    decodeWord 0b1111101000110011 = .ok (.bcd 10) ∧ decodeWord 0b1111101001010101 = .ok (.store 10) ∧
    decodeWord 0b1111101001100101 = .ok (.load 10) := by decide
theorem test_decode_unknown :
    decodeWord 0x5AB1 = .error (.unknownWord 0x5AB1) ∧ decodeWord 0x8AB8 = .error (.unknownWord 0x8AB8) ∧
    decodeWord 0x9AB1 = .error (.unknownWord 0x9AB1) ∧ decodeWord 0xEA9F = .error (.unknownWord 0xEA9F) ∧
    decodeWord 0xFA85 = .error (.unknownWord 0xFA85) := by decide
theorem test_decode_is_big_endian : decode [0x12, 0x34, 0x56] = .ok (.jp 0x234, [0x56]) := by decide
theorem test_decode_needs_two_bytes : decode [0x12] = .error (.tooFewBytes [0x12]) := by decide
theorem test_decode_table_word : decodeTableWord 16 0x8AB5 = some (.sub 10 11) ∧ decodeTableWord 16 0xFA75 = none := by
  decide
theorem test_first_step_after_reset_runs_the_word :
    step (State.reset.withFetchWord 16 0x00E0) =
      .next ((State.reset.withFetchWord 16 0x00E0).advance.setDisplay Display.blank).endCycle.endSlot := by rfl

/-! ## Registers, arithmetic, logic (V-LD, V-ADDI, V-MOV, V-OR, V-AND, V-XOR, V-ADD, V-SUB, V-SUBN, V-SHR, V-SHL, V-RND) -/

/-- V-LD-1. -/
theorem test_ldImm : ((after s0 0x6A7F).reg 10, (after s0 0x6A7F).pc) = (0x7F, 0x202) := by decide
/-- V-ADDI-1. -/
theorem test_addImm_wraps_without_flag :
    let t := after ((s0.setReg 3 0xF0).setReg 15 0x77) 0x7320
    (t.reg 3, t.reg 15) = (0x10, 0x77) := by decide
/-- V-ADDI-2. -/
theorem test_addImm_to_vf : (after (s0.setReg 15 0xFF) 0x7F01).reg 15 = 0x00 := by decide
/-- V-MOV-1. -/
theorem test_ldReg : (after (s0.setReg 2 0x7B) 0x8120).reg 1 = 0x7B := by decide
/-- V-OR-1. -/
theorem test_or_keeps_vf :
    let t := after (((s0.setReg 1 0x0F).setReg 2 0xF0).setReg 15 1) 0x8121
    (t.reg 1, t.reg 15) = (0xFF, 1) := by decide
/-- V-AND-1. -/
theorem test_and_keeps_vf :
    let t := after (((s0.setReg 1 0x3C).setReg 2 0x0F).setReg 15 1) 0x8122
    (t.reg 1, t.reg 15) = (0x0C, 1) := by decide
/-- V-XOR-1. -/
theorem test_xor_keeps_vf :
    let t := after (((s0.setReg 1 0xFF).setReg 2 0x0F).setReg 15 1) 0x8123
    (t.reg 1, t.reg 15) = (0xF0, 1) := by decide
/-- V-ADD-3. -/
theorem test_addReg_carries :
    let t := after ((s0.setReg 1 0xFF).setReg 2 0xFF) 0x8124
    (t.reg 1, t.reg 15) = (0xFE, 1) := by decide
/-- V-ADD-4: the flag wins over the result. -/
theorem test_addReg_to_vf : (after ((s0.setReg 15 2).setReg 1 3) 0x8F14).reg 15 = 0 := by decide
/-- V-SUB-1: VF = 1 on borrow. -/
theorem test_sub_borrows :
    let t := after ((s0.setReg 1 0x05).setReg 2 0x0A) 0x8125
    (t.reg 1, t.reg 15) = (0xFB, 1) := by decide
/-- V-SUB-3. -/
theorem test_sub_equal :
    let t := after (((s0.setReg 1 0x33).setReg 2 0x33).setReg 15 1) 0x8125
    (t.reg 1, t.reg 15) = (0x00, 0) := by decide
/-- V-SUBN-1. -/
theorem test_subn_borrows :
    let t := after ((s0.setReg 1 0x0A).setReg 2 0x05) 0x8127
    (t.reg 1, t.reg 15) = (0xFB, 1) := by decide
/-- V-SUBN-2. -/
theorem test_subn_positive :
    let t := after (((s0.setReg 1 0x05).setReg 2 0x0A).setReg 15 1) 0x8127
    (t.reg 1, t.reg 15) = (0x05, 0) := by decide
/-- V-SHR-1, switch on. -/
theorem test_shr_of_dest :
    let t := after ((s1.setReg 1 0x05).setReg 2 0x08) 0x8126
    (t.reg 1, t.reg 15) = (0x02, 1) := by decide
/-- V-SHR-1, switch off. -/
theorem test_shr_of_source :
    let t := after ((s0.setReg 1 0x05).setReg 2 0x08) 0x8126
    (t.reg 1, t.reg 15) = (0x04, 0) := by decide
/-- V-SHL-1, switch on. -/
theorem test_shl_of_dest :
    let t := after ((s1.setReg 1 0x81).setReg 2 0x40) 0x812E
    (t.reg 1, t.reg 15) = (0x02, 1) := by decide
/-- V-SHL-4, switch off. -/
theorem test_shl_to_vf : (after ((s0.setReg 15 0x81).setReg 1 0x01) 0x8F1E).reg 15 = 0 := by decide
/-- V-RND-1. -/
theorem test_rnd : (after (start off [inp 0 0xA7]) 0xC10F).reg 1 = 0x07 := by decide

/-! ## Skips, jumps, subroutines (V-SE, V-SNE, V-JP, V-JPV, V-CALL, V-RET, V-SYS, V-UNK) -/

/-- V-SE-1 and V-SE-2. -/
theorem test_seImm :
    (after ((s0.setPc 0x204).setReg 0 0x14) 0x3014).pc = 0x208 ∧ (after ((s0.setPc 0x204).setReg 0 0x14) 0x3015).pc = 0x206 := by
  decide
/-- V-SNE-1 and V-SNE-2. -/
theorem test_sneImm :
    (after ((s0.setPc 0x204).setReg 0 0x14) 0x4014).pc = 0x206 ∧ (after ((s0.setPc 0x204).setReg 0 0x14) 0x4015).pc = 0x208 := by
  decide
/-- V-SE-5 and V-SE-6. -/
theorem test_seReg :
    (after (((s0.setPc 0x300).setReg 1 0x33).setReg 2 0x34) 0x5120).pc = 0x302 ∧
    (after (s0.setReg 3 9) 0x5330).pc = 0x204 := by decide
/-- V-SNE-3 and V-SNE-5. -/
theorem test_sneReg :
    (after (((s0.setPc 0x300).setReg 1 0x33).setReg 2 0x34) 0x9120).pc = 0x304 ∧
    (after (s0.setReg 3 9) 0x9330).pc = 0x202 := by decide
/-- V-SE-8: the last word of memory may skip past it. -/
theorem test_skip_past_the_top : (after (s0.setPc 0xFFE) 0x3000).pc = 0x1002 := by decide
/-- V-JP-1. -/
theorem test_jp_to_itself : (after s0 0x1200).pc = 0x200 := by decide
/-- V-JPV-1, both settings. -/
theorem test_jpOff_register :
    (after ((s0.setReg 0 0x04).setReg 2 0x10) 0xB210).pc = 0x214 ∧
    (after ((s1.setReg 0 0x04).setReg 2 0x10) 0xB210).pc = 0x220 := by decide
/-- V-JPV-2: not masked. -/
theorem test_jpOff_is_not_masked : (after (s0.setReg 0 0xFF) 0xBFFF).pc = 0x10FE := by decide
/-- V-CALL-2. -/
theorem test_call_last_entry :
    let t := after (stacked s0 15 0x222) 0x2300
    (t.entry 15, t.entry 14, t.sp, t.pc) = (0x202, 0x222, 16, 0x300) := by decide
/-- V-CALL-3. -/
theorem test_call_overflow :
    let t := after (stacked s0 16 0x222) 0x2300
    (t.status, t.pc, t.sp, t.entry 15) = (.halted .stackOverflow 0x200 (some 0x2300), 0x200, 16, 0x222) := by decide
/-- V-RET-1. -/
theorem test_ret :
    let t := after ((stacked s0 1 0x202).setPc 0x300) 0x00EE
    (t.sp, t.pc) = (0, 0x202) := by decide
/-- V-RET-2. -/
theorem test_ret_underflow :
    (after (s0.setPc 0x300) 0x00EE).status = .halted .stackUnderflow 0x300 (some 0x00EE) := by decide
/-- V-SYS-1 and V-SYS-2. -/
theorem test_sys :
    (after s0 0x0123).status = .halted .unknownInstruction 0x200 (some 0x0123) ∧
    (after (start skipping [inp 0 0]) 0x0123).pc = 0x202 := by decide
/-- V-UNK. -/
theorem test_unknown_word :
    (after s0 0x812F).status = .halted .unknownInstruction 0x200 (some 0x812F) ∧ (after s0 0x812F).pc = 0x200 ∧
    (after (start skipping [inp 0 0]) 0x812F).pc = 0x202 := by decide
/-- V-JP-3. -/
theorem test_fetch_at_the_last_byte_faults :
    (next (s0.setPc 0xFFF)).status = .halted .outOfBoundsAddress 0xFFF none := by decide
/-- V-JP-5: an odd pc fetches. -/
theorem test_odd_pc_fetches : ((put (s0.setPc 0x203) 0x203 [0x61, 0x07]).fetch) = some 0x6107 := by decide

/-! ## Timers and the address register (V-TMR, V-I) -/

/-- V-TMR-1. -/
theorem test_ldFromDt : (after (s0.setDt 0x3C) 0xF507).reg 5 = 0x3C := by decide
/-- V-TMR-3. -/
theorem test_ldDt : (after (s0.setReg 5 0x3C) 0xF515).dt = 60 := by decide
/-- V-TMR-5. -/
theorem test_ldSt_starts_the_tone :
    (after (s0.setReg 0 2) 0xF018).st = 2 ∧ (after (s0.setReg 0 2) 0xF018).toneActive = true := by decide
/-- Ticks alone: DT = 1, ST = 2 after one and two ticks (V-TMR). -/
theorem test_tick :
    let t := ((s0.setDt 1).setSt 2).tick
    (t.dt, t.st, t.toneActive, t.tick.dt, t.tick.st, t.tick.toneActive) = (0, 1, true, 0, 0, false) := by decide
/-- V-I-2. -/
theorem test_ldI : (after s0 0xAFFF).i = 0xFFF := by decide
/-- V-I-4, switch off. -/
theorem test_addI_keeps_vf :
    let t := after (((s0.setI 0xFFE).setReg 3 5).setReg 15 0x44) 0xF31E
    (t.i, t.reg 15) = (0x003, 0x44) := by decide
/-- V-I-7, switch on: the old VF is the operand. -/
theorem test_addI_of_vf :
    let t := after ((s1.setI 0xFFE).setReg 15 3) 0xFF1E
    (t.i, t.reg 15) = (0x001, 1) := by decide
/-- V-I-11 and V-I-13. -/
theorem test_ldFont :
    (after (s0.setReg 2 0x1A) 0xF229).i = 0x082 ∧ (after (s0.setReg 2 0xFF) 0xF229).i = 0x09B := by decide

/-! ## The display (V-CLS, V-DRW) -/

/-- A blank picture with one pixel lit. -/
def lit (y : Fin 32) (x : Fin 64) : Display := Display.blank.flip y x

/-- V-CLS-1. -/
theorem test_cls_keeps_vf :
    let t := after ((s0.setDisplay (lit 31 63)).setReg 15 1) 0x00E0
    (t.display, t.reg 15) = (Display.blank, 1) := by decide
/-- V-DRW-3: an erased pixel sets VF. -/
theorem test_drw_erases :
    let t := after (put ((s0.setDisplay (lit 0 3)).setI 0x300) 0x300 [0xF0]) 0xD011
    (t.pixel 0 2, t.pixel 0 3, t.pixel 0 4, t.reg 15) = (true, false, false, 1) := by decide
/-- V-DRW-7: past the corner, clipped and wrapped. -/
theorem test_drw_clips_and_wraps :
    let t := after (put (((s0.setReg 0 60).setReg 1 31).setI 0x300) 0x300 [0xFF, 0x81]) 0xD012
    let u := after (put (((s1.setReg 0 60).setReg 1 31).setI 0x300) 0x300 [0xFF, 0x81]) 0xD012
    (t.pixel 31 63, t.pixel 31 0, t.pixel 0 60, t.reg 15) = (true, false, false, 0) ∧
    (u.pixel 31 3, u.pixel 0 60, u.pixel 0 3, u.pixel 0 61) = (true, true, true, false) := by decide
/-- The snapshot is row-major: pixel (x, y) = (5, 1) is element 69 (R223). -/
theorem test_snapshot : (s0.setDisplay (lit 1 5)).snapshot[69]? = some true := by decide

/-! ## The keypad (V-KEY) -/

/-- V-KEY-3 and V-KEY-4: the low nibble selects. -/
theorem test_skp :
    (after ((start off [inp 0x0400 0]).setReg 4 0x1A) 0xE49E).pc = 0x204 ∧
    (after ((start off [inp 0x0800 0]).setReg 4 0x0A) 0xE49E).pc = 0x202 := by decide
/-- V-KEY-5 and V-KEY-7. -/
theorem test_sknp :
    (after (s0.setReg 4 0x0A) 0xE4A1).pc = 0x204 ∧
    (after ((start off [inp 0x0400 0]).setReg 4 0xFA) 0xE4A1).pc = 0x202 := by decide
/-- V-KEY-8: FX0A only starts the wait. -/
theorem test_ldKey_starts_the_wait :
    let t := after (s0.setReg 3 0xEE) 0xF30A
    (t.wait, t.pc, t.reg 3) = (some 3, 0x202, 0xEE) := by decide
/-- V-KEY-13: of 9, 4 and C the lowest is delivered. -/
theorem test_wait_delivers_lowest :
    let t := next ((start off [inp 0x1210 0]).setWait (some 3))
    (t.wait, t.reg 3, t.kprev, t.pc) = (none, 4, 0x1210, 0x200) := by decide
/-- V-KEY-14: key 7 was already down. -/
theorem test_wait_ignores_held_key :
    (next ({ (start off [inp 0x0084 0]).setWait (some 3) with kprev := 0x0080 })).reg 3 = 2 := by decide
/-- V-KEY-18: a shutdown ends the run, not the wait. -/
theorem test_shutdown_in_the_wait :
    let t := next ((start off [⟨0, 0, true⟩]).setWait (some 3))
    (t.status, t.wait) = (.stopped, some 3) := by decide

/-! ## Memory transfers (V-BCD, V-ST, V-LDM) -/

/-- V-BCD-1. -/
theorem test_bcd :
    let t := after ((s0.setReg 2 0x9C).setI 0x300) 0xF233
    (t.byteAt 0x300, t.byteAt 0x301, t.byteAt 0x302) = (1, 5, 6) := by decide
/-- V-BCD-5: the addresses wrap. -/
theorem test_bcd_wraps :
    let t := after ((s0.setReg 2 0x80).setI 0xFFE) 0xF233
    (t.byteAt 0xFFE, t.byteAt 0xFFF, t.byteAt 0, t.i) = (1, 2, 8, 0xFFE) := by decide
/-- V-ST-2, switch off: only V0. -/
theorem test_store_one :
    let t := after (((s0.setReg 0 0x11).setReg 1 0x22).setI 0x400) 0xF055
    (t.byteAt 0x400, t.byteAt 0x401, t.i) = (0x11, 0, 0x400) := by decide
/-- V-ST-3, switch on: the addresses wrap and I advances. -/
theorem test_store_wraps :
    let t := after (((s1.setReg 0 0xAA).setReg 1 0xBB).setI 0xFFF) 0xF155
    (t.byteAt 0xFFF, t.byteAt 0, t.i) = (0xAA, 0xBB, 0x001) := by decide
/-- V-LDM-2: only V0. -/
theorem test_load_one :
    let t := after (put ((s0.setReg 1 0x77).setI 0x400) 0x400 [0xAA, 0xBB]) 0xF065
    (t.reg 0, t.reg 1, t.i) = (0xAA, 0x77, 0x400) := by decide
/-- V-LDM-5, switch on: glyph 0 of the font. -/
theorem test_load_glyph :
    let t := after (s1.setI 0x50) 0xF465
    (t.reg 0, t.reg 1, t.reg 3, t.reg 4, t.i) = (0xF0, 0x90, 0x90, 0xF0, 0x055) := by decide
/-- Memory stays canonical: writing the power-on content removes the entry. -/
theorem test_write_back_is_unlisted : ((s0.writeByte 0x300 7).writeByte 0x300 0).mem = [] := by decide

/-! ## Witnesses: for every statement with hypotheses a state and operands that meet them all together -/

/-- A cycle that fetches `w`: what makes it one. -/
theorem fetches (s : State) (w : Word)
    (h : s.status = .running ∧ s.phase < s.cfg.cyclesPerFrame ∧ s.input.shutdown = false ∧ s.wait = none ∧
      s.fetch = some w) : s.Fetches w :=
  ⟨⟨h.1, h.2.1, h.2.2.1⟩, h.2.2.2.1, h.2.2.2.2⟩

/-- A cycle that runs `i`. -/
theorem runs (s : State) (w : Word) (i : Instr)
    (h : s.status = .running ∧ s.phase < s.cfg.cyclesPerFrame ∧ s.input.shutdown = false ∧ s.wait = none ∧
      s.fetch = some w) (hd : decodeWord w = .ok i) : s.Runs i :=
  ⟨w, fetches s w h, hd⟩

/-- The step of a concrete state. -/
theorem step_next (s : State) (h : (match step s with | .next _ => true | _ => false) = true) :
    step s = .next (next s) := by
  unfold next; split <;> simp_all

/-- The state an instruction leaves. -/
def ran (i : Instr) (s : State) : State :=
  match exec i s with
  | .next t => t
  | _ => s

theorem exec_ran (i : Instr) (s : State) (h : (match exec i s with | .next _ => true | _ => false) = true) :
    exec i s = .next (ran i s) := by
  unfold ran; split <;> simp_all

/-- The word `w` placed at 0x200 of state `s`, the next step running it. -/
def at200 (s : State) (w : Nat) : State := s.withFetchWord 16 w

theorem test_witness_EncodeThenDecode : (Instr.sys 0x000).wf = true ∧ (Instr.drw 15 0 15).wf = true := by decide
theorem test_witness_DecodeThenEncode : decodeWord 0xDF0F = .ok (.drw 15 0 15) := by decide
theorem test_witness_MaskAndMatchSelectTheRow :
    (0x0FFF : Word) &&& (encRow (.sys 0)).mask = (encRow (.sys 0)).pat ∧
      (∀ nnn, Instr.sys 0 = .sys nnn → (0x0FFF : Word) ≠ 0x00E0 ∧ (0x0FFF : Word) ≠ 0x00EE) :=
  ⟨by decide, fun _ _ => by decide⟩
theorem test_witness_StepRunsDecodedInstruction :
    (at200 s0 0x8124).Fetches 0x8124 ∧ decodeWord 0x8124 = .ok (.addReg 1 2) ∧
      exec (.addReg 1 2) (at200 s0 0x8124).advance = .next (ran (.addReg 1 2) (at200 s0 0x8124).advance) :=
  ⟨fetches _ _ (by decide), by decide, exec_ran _ _ (by decide)⟩
theorem test_witness_FetchReadsBigEndianWord : 0xFFE < (s0.setPc 0xFFF).pc.toNat ∧ (s0.setPc 0xFFE).pc.toNat ≤ 0xFFE := by
  decide
theorem test_witness_FetchOutOfRangeHalts :
    (s0.setPc 0xFFF).Ready ∧ (s0.setPc 0xFFF).wait = none ∧ 0xFFE < (s0.setPc 0xFFF).pc.toNat :=
  ⟨⟨by decide, by decide, by decide⟩, by decide, by decide⟩
theorem test_witness_UnknownWordFollowsPolicy_unknown :
    (at200 s0 0x5121).Fetches 0x5121 ∧ decodeWord 0x5121 = .error (.unknownWord 0x5121) ∧
      (at200 s0 0x5121).cfg.unknownPolicy = .fatal := ⟨fetches _ _ (by decide), by decide, by decide⟩
theorem test_witness_UnknownWordFollowsPolicy_sys :
    (at200 (start skipping [inp 0 0]) 0x00E1).Fetches 0x00E1 ∧ decodeWord 0x00E1 = .ok (.sys 0x0E1) ∧
      (at200 (start skipping [inp 0 0]) 0x00E1).cfg.unknownPolicy = .skip := ⟨fetches _ _ (by decide), by decide, by decide⟩
theorem test_witness_StackFaultsHalt_call :
    (at200 (stacked s0 16 0x222) 0x2300).Fetches 0x2300 ∧ decodeWord 0x2300 = .ok (.call 0x300) ∧
      (at200 (stacked s0 16 0x222) 0x2300).sp.val = 16 := ⟨fetches _ _ (by decide), by decide, by decide⟩
theorem test_witness_StackFaultsHalt_ret :
    (at200 s0 0x00EE).Fetches 0x00EE ∧ decodeWord 0x00EE = .ok .ret ∧ (at200 s0 0x00EE).sp.val = 0 :=
  ⟨fetches _ _ (by decide), by decide, by decide⟩
theorem test_witness_FaultsArePreciseAndCaused_overflow :
    let s := at200 (stacked s0 16 0x222) 0x2300
    s.status = .running ∧ step s = .next (next s) ∧ (next s).status = .halted .stackOverflow 0x200 (some 0x2300) :=
  ⟨by decide, step_next _ (by decide), by decide⟩
theorem test_witness_FaultsArePreciseAndCaused_fetch :
    let s := s0.setPc 0x1000
    s.status = .running ∧ step s = .next (next s) ∧ (next s).status = .halted .outOfBoundsAddress 0x1000 none :=
  ⟨by decide, step_next _ (by decide), by decide⟩
theorem test_witness_FaultsArePreciseAndCaused_unknown :
    step s0 = .next (next s0) ∧ (next s0).status = .halted .unknownInstruction 0x200 (some 0x0000) :=
  ⟨step_next _ (by decide), by decide⟩
theorem test_witness_ShutdownStopsTheEngine_cycle :
    let s := start off [⟨0, 0, true⟩]
    s.status = .running ∧ s.input.shutdown = true ∧ s.phase < s.cfg.cyclesPerFrame := by decide
theorem test_witness_ShutdownStopsTheEngine_tick :
    let s := start { off with cyclesPerFrame := 0 } [⟨0, 0, true⟩]
    s.status = .running ∧ s.input.shutdown = true ∧ s.cfg.cyclesPerFrame = 0 := by decide
theorem test_witness_StoppedDriverDoesNothing :
    (s0.setStatus .stopped).status ≠ .running ∧
      (s0.setStatus (.halted .stackUnderflow 0x200 (some 0x00EE))).status ≠ .running := by decide
theorem test_witness_ConfigurationIsFixed : step s0 = .next (next s0) := step_next _ (by decide)
theorem test_witness_TickCountsDown :
    (s0.setPhase 2).status = .running ∧ (s0.setPhase 2).cfg.cyclesPerFrame ≤ (s0.setPhase 2).phase ∧
      ((s0.setPhase 2).cfg.cyclesPerFrame = 0 → (s0.setPhase 2).input.shutdown = false) := by decide
theorem test_witness_TickCountsDown_no_cycles :
    let s := start { off with cyclesPerFrame := 0 } [inp 0 0]
    s.status = .running ∧ s.cfg.cyclesPerFrame ≤ s.phase ∧ (s.cfg.cyclesPerFrame = 0 → s.input.shutdown = false) := by
  decide

/-- A frame of one cycle that runs a jump to itself. -/
def looping : State := at200 ((s0.setDt 3).setSt 1) 0x1200

theorem test_witness_FrameIsCyclesThenOneTick :
    looping.phase = 0 ∧ 1 ≤ looping.cfg.cyclesPerFrame ∧ runSteps 1 looping = .next (next looping) ∧
      (next looping).status = .running ∧ 1 = looping.cfg.cyclesPerFrame ∧
      step (next looping) = .next (next (next looping)) ∧ (next (next looping)).status = .running :=
  ⟨by decide, by decide, by rw [runSteps_succ 0 (step_next looping (by decide))]; rfl, by decide, by decide,
    step_next _ (by decide), by decide⟩
theorem test_witness_FrameIsCyclesThenOneTick_cycle :
    0 < 1 ∧ runSteps 0 looping = .next looping ∧ step looping = .next (next looping) :=
  ⟨by decide, rfl, step_next _ (by decide)⟩
theorem test_witness_FrameIsCyclesThenOneTick_write :
    let s := at200 (s0.setReg 5 9) 0xF515
    s.phase = 0 ∧ 1 ≤ s.cfg.cyclesPerFrame ∧ runSteps 1 s = .next (next s) ∧ (next s).status = .running ∧
      (next s).dt = s.reg 5 ∧ (next s).dt ≠ s.dt :=
  ⟨by decide, by decide, by rw [runSteps_succ 0 (step_next _ (by decide))]; rfl, by decide, by decide, by decide⟩
theorem test_witness_WaitingCycleDeliversLowestPress :
    let s := (start off [inp 0x8001 0]).setWait (some 15)
    s.Ready ∧ s.wait = some 15 ∧ (s.kprev.getLsbD 0 = false ∧ s.keys.getLsbD 0 = true) ∧
      ∀ j < (0 : Key), ¬(s.kprev.getLsbD j.val = false ∧ s.keys.getLsbD j.val = true) :=
  ⟨⟨by decide, by decide, by decide⟩, by decide, by decide, by decide⟩
theorem test_witness_WaitingCycleDeliversLowestPress_highest :
    let s := (start off [inp 0x8000 0]).setWait (some 15)
    s.Ready ∧ s.wait = some 15 ∧ (s.kprev.getLsbD 15 = false ∧ s.keys.getLsbD 15 = true) ∧
      ∀ j < (15 : Key), ¬(s.kprev.getLsbD j.val = false ∧ s.keys.getLsbD j.val = true) :=
  ⟨⟨by decide, by decide, by decide⟩, by decide, by decide, by decide⟩
theorem test_witness_WaitingCycleDeliversLowestPress_none :
    let s := s0.setWait (some 0)
    s.Ready ∧ s.wait = some 0 ∧ ∀ k : Key, ¬(s.kprev.getLsbD k.val = false ∧ s.keys.getLsbD k.val = true) :=
  ⟨⟨by decide, by decide, by decide⟩, by decide, by decide⟩

/-- Key 7 held while FX0A runs and in the cycle after it. -/
def holding : State := put (start off [inp 0x0080 0, inp 0x0080 0]) 0x200 [0xF3, 0x0A]

theorem test_witness_HeldKeyDoesNotEndWait :
    holding.Runs (.ldKey 3) ∧ step holding = .next (next holding) ∧ (next holding).Ready ∧
      (next holding).keys = holding.keys :=
  ⟨runs _ 0xF30A _ (by decide) (by decide), step_next _ (by decide), ⟨by decide, by decide, by decide⟩, by decide⟩
theorem test_witness_WaitingFrameTicksOnce :
    let s := (start off [inp 0 0, inp 0 0]).setWait (some 3)
    s.status = .running ∧ s.wait = some 3 ∧ s.phase = 0 ∧ (s.cfg.cyclesPerFrame = 0 → s.input.shutdown = false) ∧
      s.cfg.cyclesPerFrame ≤ s.inputs.length ∧ ∀ x ∈ s.inputs, x.shutdown = false ∧ x.keys = s.kprev := by decide
theorem test_witness_WaitingFrameTicksOnce_no_cycles :
    let s := (start { off with cyclesPerFrame := 0 } [inp 0 0]).setWait (some 3)
    s.status = .running ∧ s.wait = some 3 ∧ s.phase = 0 ∧ (s.cfg.cyclesPerFrame = 0 → s.input.shutdown = false) ∧
      s.cfg.cyclesPerFrame ≤ s.inputs.length ∧ ∀ x ∈ s.inputs, x.shutdown = false ∧ x.keys = s.kprev := by decide
theorem test_witness_ShiftsMoveOneBitToVF :
    (0x08 : Byte) = (if (s0.setReg 2 0x08).cfg.shiftReadsDest then (s0.setReg 2 0x08).reg 1 else (s0.setReg 2 0x08).reg 2) ∧
      (0x05 : Byte) = (if (s1.setReg 1 0x05).cfg.shiftReadsDest then (s1.setReg 1 0x05).reg 1 else (s1.setReg 1 0x05).reg 2) := by
  decide
theorem test_witness_KeySkips : (10 : Nat) = ((s0.setReg 4 0xFA).reg 4).toNat % 16 := by decide
theorem test_witness_SelfJumpRepeats :
    looping.Runs (.jp 0x200) ∧ looping.pc.toNat = (0x200 : Addr).toNat :=
  ⟨runs _ 0x1200 _ (by decide) (by decide), by decide⟩
theorem test_witness_CallPushesOrOverflows :
    (stacked s0 0 0).sp.val < 16 ∧ (stacked s0 15 0x222).sp.val < 16 ∧ (stacked s0 16 0x222).sp.val = 16 := by decide
theorem test_witness_ReturnPopsOrUnderflows :
    0 < (stacked s0 1 0x202).sp.val ∧ 0 < (stacked s0 16 0x202).sp.val ∧ s0.sp.val = 0 := by decide
theorem test_witness_CallThenReturnRestores :
    (stacked s0 15 0x222).sp.val < 16 ∧
      exec (.call 0x300) (stacked s0 15 0x222) = .next (ran (.call 0x300) (stacked s0 15 0x222)) :=
  ⟨by decide, exec_ran _ _ (by decide)⟩
theorem test_witness_SysRaisesUnknownInstruction :
    s0.cfg.unknownPolicy = .fatal ∧ (start skipping []).cfg.unknownPolicy = .skip := by decide
theorem test_witness_EvenTargetsKeepPcEven :
    looping.EvenPc ∧ (∀ i, looping.Runs i → i.evenTarget looping) ∧ step looping = .next (next looping) := by
  refine ⟨⟨by decide, by decide⟩, fun i ⟨w, hf, hd⟩ => ?_, step_next _ (by decide)⟩
  have hw : some w = some 0x1200 := hf.fetched.symm.trans (by decide)
  injection hw with hw
  subst hw
  have hi : Except.ok i = Except.ok (ε := DecodeReject) (Instr.jp 0x200) := hd.symm.trans (by decide)
  injection hi with hi
  subst hi
  exact ⟨fun n h => by injection h with h; subst h; decide, fun _ h => by simp at h, fun _ h => by simp at h⟩
theorem test_witness_DelayTimerMovesOnlyByTickOrFX15_tick :
    let s := (s0.setDt 1).setPhase 2
    step s = .next (next s) ∧ (next s).dt ≠ s.dt := ⟨step_next _ (by decide), by decide⟩
theorem test_witness_DelayTimerMovesOnlyByTickOrFX15_write :
    let s := at200 (s0.setReg 5 9) 0xF515
    step s = .next (next s) ∧ (next s).dt ≠ s.dt := ⟨step_next _ (by decide), by decide⟩
theorem test_witness_ToneChangesOnlyByTickOrFX18_tick :
    let s := (s0.setSt 1).setPhase 2
    step s = .next (next s) ∧ (next s).toneActive ≠ s.toneActive := ⟨step_next _ (by decide), by decide⟩
theorem test_witness_ToneChangesOnlyByTickOrFX18_write :
    let s := at200 (s0.setReg 5 9) 0xF518
    step s = .next (next s) ∧ (next s).toneActive ≠ s.toneActive := ⟨step_next _ (by decide), by decide⟩
theorem test_witness_AddToAddressRegister : s1.cfg.addiOverflow = true ∧ s0.cfg.addiOverflow = false := by decide

/-- A state whose sprite at I = 0x300 is one row 0xF0. -/
def drawing : State := put (s0.setI 0x300) 0x300 [0xF0]

theorem test_witness_DrawInvertsCoveredPixels_covered :
    drawing.Covers 0 1 1 0 3 ∧ (drawing.setDisplay (lit 0 3)).pixel 0 3 = true := 
  ⟨⟨0, by decide, 3, by decide, by decide, by unfold Lands; decide, by unfold Lands; decide⟩, by decide⟩
theorem test_witness_DrawInvertsCoveredPixels_not_covered : ¬ drawing.Covers 0 1 0 31 63 := by
  rintro ⟨r, hr, _⟩
  exact absurd hr (by simp)
theorem test_witness_DrawingTwiceRestores :
    (0 : Reg) ≠ 15 ∧ (1 : Reg) ≠ 15 ∧ exec (.drw 0 1 1) drawing = .next (ran (.drw 0 1 1) drawing) :=
  ⟨by decide, by decide, exec_ran _ _ (by decide)⟩
theorem test_witness_bulk_switch : s1.cfg.loadStoreInc = true ∧ s0.cfg.loadStoreInc = false := by decide
theorem test_witness_StoreThenLoadRestores :
    let t := ran (.store 15) ((s0.setReg 15 7).setI 0xFF8)
    exec (.store 15) ((s0.setReg 15 7).setI 0xFF8) = .next t ∧ t.mem = t.mem ∧ t.cfg = ((s0.setReg 15 7).setI 0xFF8).cfg ∧
      t.i = ((s0.setReg 15 7).setI 0xFF8).i :=
  ⟨exec_ran _ _ (by decide), rfl, by decide, by decide⟩
theorem test_witness_StoredCodeIsFetchedNext :
    let s := (((s0.setReg 0 0x12).setReg 1 0x08).setI 0xFFE).setPc 0xFFE
    (1 : Reg).val = (0 : Reg).val + 1 ∧ (1 : Reg) ≤ 1 ∧ s.pc.toNat = (s.ea 0).toNat ∧ s.pc.toNat ≤ 0xFFE ∧
      exec (.store 1) s = .next (ran (.store 1) s) :=
  ⟨by decide, by decide, by decide, by decide, exec_ran _ _ (by decide)⟩
theorem test_witness_MemoryChangesOnlyByStores_bcd :
    let s := at200 ((s0.setReg 2 156).setI 0xFFE) 0xF233
    step s = .next (next s) ∧ (next s).byteAt 0 ≠ s.byteAt 0 := ⟨step_next _ (by decide), by decide⟩
theorem test_witness_MemoryChangesOnlyByStores_store :
    let s := at200 ((s0.setReg 1 7).setI 0xFFF) 0xF155
    step s = .next (next s) ∧ (next s).byteAt 0 ≠ s.byteAt 0 := ⟨step_next _ (by decide), by decide⟩
theorem test_witness_FlagChangesOnlyByItsWriters_flag :
    let s := at200 (s0.setReg 2 1) 0x8125
    step s = .next (next s) ∧ (next s).reg 15 ≠ s.reg 15 := ⟨step_next _ (by decide), by decide⟩
theorem test_witness_FlagChangesOnlyByItsWriters_destination :
    let s := at200 s0 0x6F55
    step s = .next (next s) ∧ (next s).reg 15 ≠ s.reg 15 := ⟨step_next _ (by decide), by decide⟩
theorem test_witness_FlagChangesOnlyByItsWriters_wait :
    let s := (start off [inp 0x0020 0]).setWait (some 15)
    step s = .next (next s) ∧ (next s).reg 15 ≠ s.reg 15 := ⟨step_next _ (by decide), by decide⟩
theorem test_witness_ScreenStackAndAddressWriters_display :
    let s := at200 (s0.setDisplay (lit 0 0)) 0x00E0
    step s = .next (next s) ∧ (next s).display ≠ s.display := ⟨step_next _ (by decide), by decide⟩
theorem test_witness_ScreenStackAndAddressWriters_stack :
    let s := at200 (stacked s0 15 0x222) 0x2300
    step s = .next (next s) ∧ (next s).sp ≠ s.sp ∧ (next s).entry 15 ≠ s.entry 15 :=
  ⟨step_next _ (by decide), by decide, by decide⟩
theorem test_witness_ScreenStackAndAddressWriters_address :
    let s := at200 s0 0xA123
    step s = .next (next s) ∧ (next s).i ≠ s.i := ⟨step_next _ (by decide), by decide⟩
theorem test_witness_PowerOnValues : State.powerOn off = State.powerOn off := rfl
theorem test_witness_StepKeepsInvariant : s0.Inv ∧ step s0 = .next (next s0) :=
  ⟨⟨by decide, by decide, by decide, by decide, Memory.wf_nil _, fun _ _ _ h => by simp [s0, start, State.schedule, State.powerOn] at h⟩,
    step_next _ (by decide)⟩
theorem test_witness_LoadPlacesImageAndResets :
    (List.replicate 3584 (0xAB : Byte)).length ≤ 3584 ∧ ([] : List Byte).length ≤ 3584 :=
  ⟨by rw [List.length_replicate], by decide⟩
theorem test_witness_OversizedLoadIsRefused : (List.replicate 3585 (0xAB : Byte)).length > 3584 := by
  rw [List.length_replicate]; decide
theorem test_witness_OversizedLoadIsRefused_running :
    (∀ a w, s0.status ≠ .halted .programTooLarge a w) ∧ step s0 = .next (next s0) :=
  ⟨fun _ _ h => by simp [s0, start, State.schedule, State.powerOn] at h, step_next _ (by decide)⟩
theorem test_witness_OversizedLoadIsRefused_exec :
    (∀ a w, s0.status ≠ .halted .programTooLarge a w) ∧ exec .ret s0 = .next (ran .ret s0) :=
  ⟨fun _ _ h => by simp [s0, start, State.schedule, State.powerOn] at h, exec_ran _ _ (by decide)⟩

end Sys2Proof.Tests
end

section
/-!
PROOFS. The encoder after the decoder (30_encoding.md R78): a fault's record holds the encoding of the instruction, which is the word
that was fetched.
-/
namespace Sys2Proof

theorem wordA_of_op {w : Word} {op : BitVec 4} (ho : opField w = op) : wordA op (nnnField w) = w :=
  ho ▸ wordA_fields w

theorem wordXI_of_op {w : Word} {op : BitVec 4} (ho : opField w = op) : wordXI op (xField w) (nnField w) = w :=
  ho ▸ wordXI_fields w

theorem wordXI_of_low {w : Word} {op : BitVec 4} {nn : Byte} (ho : opField w = op)
    (hn : (nnField w).toNat = nn.toNat) : wordXI op (xField w) nn = w :=
  BitVec.eq_of_toNat_eq hn ▸ wordXI_of_op ho

theorem wordXY_of_low {w : Word} {op : BitVec 4} {n : Fin 16} (ho : opField w = op) (hn : (nField w).val = n.val) :
    wordXY op (xField w) (yField w) n = w := by
  rw [← ho, ← Fin.ext hn]; exact wordXY_fields w

/-- Encoding what was decoded gives the word back, class by class of the decoder (R74, R78). -/
theorem encodeWord_of_decodeWord {w : Word} {i : Instr} (h : decodeWord w = .ok i) : encodeWord i = w := by
  unfold decodeWord at h
  split at h
  case h_1 ho =>
    split at h
    · cases h; exact Eq.symm ‹_›
    · split at h
      · cases h; exact Eq.symm ‹_›
      · cases h; exact wordA_of_op ho
  case h_2 ho | h_3 ho | h_11 ho | h_12 ho => cases h; exact wordA_of_op ho
  case h_4 ho | h_5 ho | h_7 ho | h_8 ho | h_13 ho => cases h; exact wordXI_of_op ho
  case h_6 ho | h_10 ho =>
    split at h
    · cases h; exact wordXY_of_low ho (congrArg Fin.val ‹_›)
    · cases h
  case h_9 ho => split at h <;> cases h <;> exact wordXY_of_low ho ‹_›
  case h_14 ho => cases h; exact wordXY_of_low ho rfl
  case h_15 ho => split at h <;> cases h <;> exact wordXI_of_low ho ‹_›
  case h_16 =>
    have ho : opField w = 0xF#4 := by
      clear h; generalize opField w = op at *; decide +revert
    split at h <;> cases h <;> exact wordXI_of_low ho ‹_›

end Sys2Proof
end

section
/-!
PROOFS. Who changes what: the list `writes` read backwards, from a part of the state to the instructions that can write it, and
what follows for a whole step.
-/
namespace Sys2Proof.Machine

/-- Whether instruction `i` is one of those that can write part `p` in state `s`. Of the registers this speaks of VF
alone, and of pc and the run status not at all. -/
def Part.writtenBy (p : Part) (s : State) (i : Instr) : Prop :=
  match p with
  | .reg x => x = 15 → i.writesFlag s.cfg ∨ i.destIsVF
  | .i => (∃ nnn, i = .ldI nnn) ∨ ∃ x, i = .addI x ∨ i = .ldFont x ∨ i = .store x ∨ i = .load x
  | .entry _ => i = .ret ∨ ∃ nnn, i = .call nnn
  | .sp => i = .ret ∨ ∃ nnn, i = .call nnn
  | .dt => ∃ x, i = .ldDt x
  | .st => ∃ x, i = .ldSt x
  | .byte a => (∃ x, i = .bcd x ∧ ∃ k < 3, a = (s.ea k).toNat) ∨ ∃ x, i = .store x ∧ ∃ r ≤ x, a = (s.ea r.val).toNat
  | .display => i = .cls ∨ ∃ x y n, i = .drw x y n
  | .wait => ∃ x, i = .ldKey x
  | .pc | .status => True
  | .kprev | .phase | .cfg | .inputs => False

theorem forall_mem_writes_writtenBy (i : Instr) (s : State) : ∀ p ∈ writes i s, p.writtenBy s i := by
  cases i with
  | ret | call =>
    simp only [writes]
    split <;> simp [Part.writtenBy]
  | addI x =>
    simp only [writes]
    split <;> simp_all [Part.writtenBy, Instr.writesFlag]
  | store x =>
    simp only [writes, List.mem_cons, List.mem_map, mem_regsUpTo]
    rintro p (rfl | ⟨r, hr, rfl⟩)
    · exact .inr ⟨x, by simp⟩
    · exact .inr ⟨x, rfl, r, hr, rfl⟩
  | load x =>
    simp only [writes, List.mem_cons, List.mem_map, mem_regsUpTo]
    rintro p (rfl | ⟨r, hr, rfl⟩)
    · exact .inr ⟨x, by simp⟩
    · rintro rfl
      have hx : x = 15 := le_antisymm (Fin.le_last x) hr
      exact .inr (by simp [Instr.destIsVF, hx])
  | bcd x =>
    simp only [writes, List.forall_mem_cons, Part.writtenBy]
    exact ⟨.inl ⟨x, rfl, 0, by omega, rfl⟩, .inl ⟨x, rfl, 1, by omega, rfl⟩, .inl ⟨x, rfl, 2, by omega, rfl⟩, by simp⟩
  | _ => simp +contextual [writes, Part.writtenBy, Instr.writesFlag, Instr.destIsVF]

/-- A part that the driver does not move changes in a step only if it is a timer at a frame's end, the awaited register or the
wait itself, or written by the instruction that the step runs. -/
theorem step_changes {s t : State} {p : Part} (h : step s = .next t) (hd : p ∉ driverParts) (hp : ¬ p.same s t) :
    (s.cfg.cyclesPerFrame ≤ s.phase ∧ p ∈ [Part.dt, .st]) ∨ (∃ r, s.wait = some r ∧ p ∈ [Part.reg r, .wait]) ∨
      ∃ i, s.Runs i ∧ p.writtenBy s.advance i := by
  have listed : ∀ {ps}, KeptExcept (ps ++ driverParts) s t → p ∈ ps := fun {ps} k =>
    by_contra fun hn => hp (k p fun hm => (List.mem_append.1 hm).elim hn hd)
  rcases step_writes h with ⟨hf, k⟩ | k | ⟨r, hr, k⟩ | ⟨i, hi, k⟩
  · exact .inl ⟨hf, listed k⟩
  · exact absurd (k p hd) hp
  · exact .inr (.inl ⟨r, hr, listed k⟩)
  · exact .inr (.inr ⟨i, hi, forall_mem_writes_writtenBy _ _ p (listed k)⟩)

/-- A part that is no timer, no register and no wait, and that the driver does not move, is changed by an instruction only. -/
theorem step_changes_runs {s t : State} {p : Part} (h : step s = .next t) (hp : ¬ p.same s t)
    (hd : p ∉ driverParts := by simp) (ht : p ∉ [Part.dt, .st] := by simp)
    (hw : ∀ r, p ∉ [Part.reg r, .wait] := by simp) : ∃ i, s.Runs i ∧ p.writtenBy s.advance i := by
  rcases step_changes h hd hp with ⟨_, hm⟩ | ⟨r, _, hm⟩ | hr
  · exact absurd hm ht
  · exact absurd hm (hw r)
  · exact hr

/-- Settles O15: no instruction writes the configuration, and the driver does not either. -/
theorem configurationIsFixed : Obligations.ConfigurationIsFixed := by
  intro s t h
  by_contra hc
  obtain ⟨i, _, hi⟩ := step_changes_runs (p := .cfg) h hc
  exact hi

/-- Settles O55: the writers of the picture, the stack and I, read off the parts that each instruction writes. -/
theorem screenStackAndAddressWriters : Obligations.ScreenStackAndAddressWriters := by
  intro s t h
  have stack : (∃ i, s.Runs i ∧ (i = .ret ∨ ∃ nnn, i = .call nnn)) → s.Runs .ret ∨ ∃ nnn, s.Runs (.call nnn) := by
    rintro ⟨_, hr, rfl | ⟨nnn, rfl⟩⟩
    · exact .inl hr
    · exact .inr ⟨nnn, hr⟩
  refine ⟨fun hp => ?_, fun hp => stack ?_, fun hp => ?_⟩
  · obtain ⟨_, hr, rfl | ⟨x, y, n, rfl⟩⟩ := step_changes_runs (p := .display) h hp
    · exact .inl hr
    · exact .inr ⟨x, y, n, hr⟩
  · rcases hp with hp | ⟨j, hp⟩
    · exact step_changes_runs (p := .sp) h hp
    · exact step_changes_runs (p := .entry j) h hp
  · obtain ⟨_, hr, ⟨nnn, rfl⟩ | ⟨x, hi⟩⟩ := step_changes_runs (p := .i) h hp
    · exact .inl ⟨nnn, hr⟩
    · rcases hi with rfl | rfl | rfl | rfl
      · exact .inr ⟨x, .inl hr⟩
      · exact .inr ⟨x, .inr (.inl hr)⟩
      · exact .inr ⟨x, .inr (.inr (.inl hr))⟩
      · exact .inr ⟨x, .inr (.inr (.inr hr))⟩

/-- Settles O54: a tick writes no register, so VF is written by an instruction of R21's table or one whose X field is 15, or by a key delivered
to it. -/
theorem flagChangesOnlyByItsWriters : Obligations.FlagChangesOnlyByItsWriters := by
  intro s t h hp
  rcases step_changes (p := .reg 15) h (by simp) hp with ⟨_, hm⟩ | ⟨r, hr, hm⟩ | ⟨i, hi, hw⟩
  · simp at hm
  · have : (15 : Reg) = r := by simpa using hm
    exact .inr (this ▸ hr)
  · exact .inl ⟨i, hi, hw rfl⟩

/-! ## The tone -/

/-- A step that runs an instruction ends as the instruction leaves it, but for the latch, the slot and the input. -/
theorem step_of_runs {s u : State} {i : Instr} (h : s.Runs i) (he : exec i s.advance = .next u) :
    step s = .next u.endCycle.endSlot := by
  obtain ⟨w, hf, hd⟩ := h
  exact step_of_case (.run w hf i hd u he)

/-- With no slot left in the frame a step does nothing or ends the frame. -/
theorem step_of_no_slot {s t : State} (h : step s = .next t) (hp : s.cfg.cyclesPerFrame ≤ s.phase) :
    t = s ∨ t = s.frameEnd := by
  have noSlot : ¬ s.phase < s.cfg.cyclesPerFrame := by omega
  cases step_cases h with
  | idle => exact .inl rfl
  | frameEnd => exact .inr rfl
  | shutdown _ hs => exact absurd hs noSlot
  | waiting hr => exact absurd hr.slot noSlot
  | fetchFault hr => exact absurd hr.slot noSlot
  | unknown _ hf => exact absurd hf.ready.slot noSlot
  | run _ hf => exact absurd hf.ready.slot noSlot

/-- The end of a frame is a tick, but where a shutdown request stops the engine first (60_exceptions.md R217, R227). -/
theorem frameEnd_st (s : State) : s.frameEnd.st = s.st ∨ s.frameEnd.st = countDown s.st := by
  unfold State.frameEnd
  split
  · split
    · exact .inl rfl
    · exact .inr rfl
  · exact .inr rfl

theorem countDown_toNat (b : Byte) : (countDown b).toNat = b.toNat - 1 := by
  unfold countDown
  split
  · bv_omega
  · omega

/-- Settles O40: a step writes ST at a tick, which silences the tone from 1 only, or in FX18. -/
theorem toneChangesOnlyByTickOrFX18 : Obligations.ToneChangesOnlyByTickOrFX18 := by
  intro s t h hp
  have hst : t.st ≠ s.st := fun e => hp (by simp only [State.toneActive, e])
  rcases step_changes (p := .st) h (by simp) hst with ⟨hf, _⟩ | ⟨r, _, hm⟩ | ⟨i, hi, x, rfl⟩
  · have ht : t.st = countDown s.st := by
      rcases step_of_no_slot h hf with rfl | rfl
      · exact absurd rfl hst
      · exact (frameEnd_st s).resolve_left hst
    have hn : t.st.toNat = s.st.toNat - 1 := ht ▸ countDown_toNat s.st
    have : ¬ (0 < t.st.toNat ↔ 0 < s.st.toNat) := by simpa [State.toneActive] using hp
    exact .inl ⟨hf, by omega, by omega⟩
  · simp at hm
  · refine .inr ⟨x, hi, ?_⟩
    have e := (step_of_runs hi rfl).symm.trans h
    cases e
    rw [endCycle_eq]; rfl

/-! ## Call and return -/

/-- A raise of a stack fault in a handler halts with pc put back (40_cycle.md R97). -/
theorem raiseInHandler_halts (s : State) {f : Fault} (w : Word) (hf : f ≠ .unknownInstruction) :
    s.raiseInHandler f w = (s.setPc (s.pc - 2)).setStatus (.halted f (s.pc - 2) (some w)) :=
  raise_halts s _ _ hf

/-- Settles O33: the push below capacity, the raise at it. -/
theorem callPushesOrOverflows : Obligations.CallPushesOrOverflows := by
  intro nnn s
  constructor
  · intro h
    obtain ⟨k, n, hp, hn, hk⟩ := push_spec s s.pc h
    have he := exec_call_ok nnn s _ hp
    have kept := exec_kept _ _ _ he
    simp only [writes, dif_pos h] at kept
    exact ⟨_, he, (hk ⟨_, h⟩).trans (if_pos rfl), hn, zext16_toNat nnn, kept⟩
  · intro h
    have he := exec_call_full nnn s h
    have kept := exec_kept _ _ _ he
    rw [raiseInHandler_halts s _ (by simp)] at he kept
    simp only [writes, h, lt_irrefl, dite_false] at kept
    exact ⟨_, he, rfl, ⟨_, rfl, wordA_toNat 0x2 nnn⟩, kept⟩

/-- Settles O34: the pop above empty, the raise on an empty stack. -/
theorem returnPopsOrUnderflows : Obligations.ReturnPopsOrUnderflows := by
  intro s
  constructor
  · intro h
    obtain ⟨n, hp, hn⟩ := pop_spec s h
    have he := exec_ret_ok s _ _ hp
    have kept := exec_kept _ _ _ he
    simp only [writes, if_pos h] at kept
    exact ⟨_, he, rfl, hn, kept⟩
  · intro h
    have he := exec_ret_empty s h
    have kept := exec_kept _ _ _ he
    rw [raiseInHandler_halts s _ (by simp)] at he kept
    simp only [writes, h, lt_irrefl, if_false] at kept
    exact ⟨_, he, rfl, rfl, kept⟩

end Sys2Proof.Machine
end

section
/-!
PROOFS. The invariant (10_state.md R40): what an instruction does to each of its bounds, then each of the cases of a step.
-/
namespace Sys2Proof.Machine

/-! ## The bounds, instruction by instruction -/

theorem exec_driverKept {i : Instr} {s t : State} (h : exec i s = .next t) : DriverKept s t := by
  obtain ⟨u, hu, k⟩ := exec_next i s
  cases hu.symm.trans h
  exact k

theorem zext16_le (a : Addr) : (zext16 a).toNat ≤ 0xFFF := by
  rw [zext16_toNat]; omega

theorem glyphAddr_le (s : State) (d : Fin 16) : (s.glyphAddr d).toNat ≤ 0xFFF := by
  have hb := s.cfg.fontBase.isLt
  rw [State.glyphAddr, State.fb, BitVec.toNat_ofNat]
  exact (Nat.mod_le _ _).trans (by omega)

theorem bumpI_i_le {s : State} (x : Reg) (h : s.i.toNat ≤ 0xFFF) : (s.bumpI x).i.toNat ≤ 0xFFF := by
  rw [bumpI_i]
  split
  · exact zext16_le _
  · exact h

/-- Every value written to I is masked, or the address of a glyph (10_state.md R22). -/
theorem exec_i_le {i : Instr} {s t : State} (h : exec i s = .next t) (hi : s.i.toNat ≤ 0xFFF) : t.i.toNat ≤ 0xFFF := by
  by_cases hw : Part.i ∈ writes i s
  · rcases forall_mem_writes_writtenBy i s _ hw with ⟨nnn, rfl⟩ | ⟨x, rfl | rfl | rfl | rfl⟩ <;> cases h
    · exact zext16_le nnn
    · split <;> exact zext16_le _
    · exact glyphAddr_le s _
    · exact bumpI_i_le x ((kept_storeRegs s x .i (by simp)).symm ▸ hi)
    · exact bumpI_i_le x ((kept_loadRegs s x .i (by simp)).symm ▸ hi)
  · have hk : t.i = s.i := exec_kept i s t h .i hw
    exact hk ▸ hi

/-- What a raise in a handler leaves in pc: the address of the instruction, or of the next one under Skip (40_cycle.md R97). -/
theorem raiseInHandler_pc (s : State) (f : Fault) (w : Word) :
    (s.raiseInHandler f w).pc = s.pc - 2 ∨ (s.raiseInHandler f w).pc = s.pc := by
  unfold State.raiseInHandler
  rcases raise_cases s f (s.pc - 2) (some w) with ⟨_, _, e⟩ | ⟨_, e⟩ <;> rw [e]
  · exact .inr (by simp)
  · exact .inl rfl

theorem raiseInHandler_pc_le {s : State} (f : Fault) (w : Word) (h2 : 2 ≤ s.pc.toNat) :
    (s.raiseInHandler f w).pc.toNat ≤ s.pc.toNat := by
  rcases raiseInHandler_pc s f w with e | e <;> rw [e]
  bv_omega

theorem skipIf_pc_le (s : State) (c : Bool) : (s.skipIf c).pc.toNat ≤ s.pc.toNat + 2 := by
  cases c with
  | false => exact Nat.le_add_right _ _
  | true =>
    show (s.pc + 2).toNat ≤ _
    bv_omega

theorem offsetTarget_le (nnn : Addr) (b : Byte) : (zext16 nnn + b.setWidth 16).toNat ≤ 0x10FE := by
  have hn := zext16_le nnn
  have hb := b.isLt
  rw [BitVec.toNat_add, BitVec.toNat_setWidth]
  omega

/-- Where pc can go from an instruction fetched in range: the highest target is that of BNNN (10_state.md R23). -/
theorem exec_pc_le {i : Instr} {s t : State} (h : exec i s = .next t) (h2 : 2 ≤ s.pc.toNat) (hpc : s.pc.toNat ≤ 0x1000)
    (he : ∀ j : Fin 16, j.val < s.sp.val → (s.entry j).toNat ≤ 0x1000) : t.pc.toNat ≤ 0x10FE := by
  have raised : ∀ f w, (s.raiseInHandler f w).pc.toNat ≤ 0x10FE := fun f w =>
    (raiseInHandler_pc_le f w h2).trans (by omega)
  have kept : Part.pc ∉ writes i s → t.pc.toNat ≤ 0x10FE := fun hw => by
    have hk : t.pc = s.pc := exec_kept i s t h .pc hw
    rw [hk]; omega
  cases i with
  | sys nnn => cases h; exact raised _ _
  | jp nnn => cases h; exact (zext16_le nnn).trans (by omega)
  | jpOff nnn => cases h; exact offsetTarget_le nnn _
  | seImm | sneImm | seReg | sneReg | skp | sknp => cases h; exact (skipIf_pc_le s _).trans (by omega)
  | call nnn =>
    by_cases hs : s.sp.val < 16
    · obtain ⟨k, n, hp, _⟩ := push_spec s s.pc hs
      cases (exec_call_ok nnn s _ hp).symm.trans h
      exact (zext16_le nnn).trans (by omega)
    · cases (exec_call_full nnn s (by omega)).symm.trans h
      exact raised _ _
  | ret =>
    by_cases hs : 0 < s.sp.val
    · obtain ⟨n, hp, _⟩ := pop_spec s hs
      cases (exec_ret_ok s _ _ hp).symm.trans h
      exact (he ⟨s.sp.val - 1, by omega⟩ (by show s.sp.val - 1 < _; omega)).trans (by omega)
    · cases (exec_ret_empty s (by omega)).symm.trans h
      exact raised _ _
  | addI x => exact kept (by simp only [writes]; split <;> simp)
  | _ => exact kept (by simp [writes])

/-- The live stack entries stay return addresses: only a call writes one, the pc after it (43_subroutines_jumps.md R131). -/
theorem exec_entry_le {i : Instr} {s t : State} (h : exec i s = .next t) (hpc : s.pc.toNat ≤ 0x1000)
    (he : ∀ j : Fin 16, j.val < s.sp.val → (s.entry j).toNat ≤ 0x1000) :
    ∀ j : Fin 16, j.val < t.sp.val → (t.entry j).toNat ≤ 0x1000 := by
  have kept : Part.sp ∉ writes i s → (∀ j, Part.entry j ∉ writes i s) →
      ∀ j : Fin 16, j.val < t.sp.val → (t.entry j).toNat ≤ 0x1000 := fun hsp hj j hlt => by
    have hs : t.sp = s.sp := exec_kept i s t h .sp hsp
    have hk : t.entry j = s.entry j := exec_kept i s t h (.entry j) (hj j)
    exact hk ▸ he j (hs ▸ hlt)
  have other : i ≠ .ret → (∀ nnn, i ≠ .call nnn) → ∀ j : Fin 16, j.val < t.sp.val → (t.entry j).toNat ≤ 0x1000 :=
    fun hr hc => kept
      (fun hm => (forall_mem_writes_writtenBy i s _ hm).elim hr fun ⟨nnn, e⟩ => hc nnn e)
      (fun j hm => (forall_mem_writes_writtenBy i s _ hm).elim hr fun ⟨nnn, e⟩ => hc nnn e)
  cases i with
  | call nnn =>
    by_cases hs : s.sp.val < 16
    · obtain ⟨k, n, hp, hn, hk⟩ := push_spec s s.pc hs
      cases (exec_call_ok nnn s _ hp).symm.trans h
      intro j hj
      have hlt : j.val < n.val := hj
      show (k[j]).toNat ≤ _
      rw [hk]
      split
      · exact hpc
      · exact he j (by omega)
    · exact kept (by simp [writes, hs]) (by simp [writes, hs])
  | ret =>
    by_cases hs : 0 < s.sp.val
    · obtain ⟨n, hp, hn⟩ := pop_spec s hs
      cases (exec_ret_ok s _ _ hp).symm.trans h
      intro j hj
      have hlt : j.val < n.val := hj
      exact he j (by omega)
    · exact kept (by simp [writes, hs]) (by simp [writes, hs])
  | _ => exact other (by simp) (by simp)

/-! ## The invariant, operation by operation -/

/-- Where nothing is halted there is no record to be true. -/
theorem haltRecordTrue_of_not_halted {s : State} (h : ∀ f a w, s.status ≠ .halted f a w) : s.HaltRecordTrue :=
  fun f a w e => absurd e (h f a w)

theorem haltRecordTrue_of_running {s : State} (h : s.status = .running) : s.HaltRecordTrue :=
  haltRecordTrue_of_not_halted (by simp [h])

namespace State.Inv

/-- Stopping the engine keeps the invariant. -/
theorem stop {s : State} (h : s.Inv) : (s.setStatus .stopped).Inv :=
  ⟨h.i_le, h.pc_le, h.entry_le, h.phase_le, h.mem_wf, haltRecordTrue_of_not_halted (by simp)⟩

/-- A halt that records pc and the word there keeps the invariant (60_exceptions.md R207). -/
theorem halt {s : State} (h : s.Inv) {f : Fault} (hf : f ≠ .programTooLarge) :
    (s.setStatus (.halted f s.pc s.fetch)).Inv := by
  refine ⟨h.i_le, h.pc_le, h.entry_le, h.phase_le, h.mem_wf, fun g a w e => ?_⟩
  cases e
  exact ⟨hf, rfl, rfl⟩

/-- A cycle takes one slot of those its frame still had. -/
theorem endSlot {s : State} (h : s.Inv) (hp : s.phase < s.cfg.cyclesPerFrame) : s.endSlot.Inv :=
  ⟨h.i_le, h.pc_le, h.entry_le, hp, h.mem_wf, h.halt_true⟩

/-- The end of a cycle that began with a slot left: the latch, written or not, is no part of the invariant. -/
theorem endOfCycle {s u : State} (h : u.Inv) (k : DriverKept s u) (hp : s.phase < s.cfg.cyclesPerFrame) :
    u.endCycle.endSlot.Inv := by
  have hu : u.phase < u.cfg.cyclesPerFrame := by rw [k.phase, k.cfg]; exact hp
  rw [endCycle_eq]
  exact endSlot ⟨h.i_le, h.pc_le, h.entry_le, h.phase_le, h.mem_wf, h.halt_true⟩ hu

theorem setPc {s : State} (h : s.Inv) (hr : s.status = .running) {a : Word} (ha : a.toNat ≤ 0x10FE) : (s.setPc a).Inv :=
  ⟨h.i_le, ha, h.entry_le, h.phase_le, h.mem_wf, haltRecordTrue_of_running hr⟩

theorem waitingCycle {s : State} (h : s.Inv) (hr : s.status = .running) (r : Reg) : (s.waitingCycle r).Inv := by
  rcases waitingCycle_cases s r with ⟨k, _, e⟩ | ⟨_, e⟩ <;> rw [e] <;>
    exact ⟨h.i_le, h.pc_le, h.entry_le, h.phase_le, h.mem_wf, haltRecordTrue_of_running hr⟩

theorem frameEnd {s : State} (h : s.Inv) (hr : s.status = .running) : s.frameEnd.Inv := by
  have ticked : (s.tick.setPhase 0).Inv :=
    ⟨h.i_le, h.pc_le, h.entry_le, Nat.zero_le _, h.mem_wf, haltRecordTrue_of_running hr⟩
  have consumed : ∀ {u : State}, u.Inv → u.consumeInput.Inv := fun k =>
    ⟨k.i_le, k.pc_le, k.entry_le, k.phase_le, k.mem_wf, k.halt_true⟩
  unfold State.frameEnd
  split
  · split
    · exact consumed h.stop
    · exact consumed ticked
  · exact ticked

/-- An unknown word fetched in range halts with a true record, or is passed over. -/
theorem raiseUnknown {s : State} {w : Word} (h : s.Inv) (hf : s.Fetches w) :
    (s.raise .unknownInstruction s.pc (some w)).Inv := by
  rcases raise_cases s .unknownInstruction s.pc (some w) with ⟨_, _, e⟩ | ⟨_, e⟩ <;> rw [e]
  · have hpc := ((fetch_eq_some s w).1 hf.fetched).1
    exact h.setPc hf.ready.running (by bv_omega)
  · rw [← hf.fetched]
    exact h.halt (by simp)

/-- The instruction that a cycle fetched keeps the invariant, whether it halts the engine or not. -/
theorem of_exec {s u : State} {w : Word} {i : Instr} (h : s.Inv) (hf : s.Fetches w) (hd : decodeWord w = .ok i)
    (he : exec i s.advance = .next u) : u.Inv := by
  have hpc := ((fetch_eq_some s w).1 hf.fetched).1
  have hadv : s.advance.pc.toNat = s.pc.toNat + 2 := by
    show (s.pc + 2).toNat = _
    bv_omega
  rcases exec_status he with hrun | ⟨f, rfl, hcause⟩
  · have driver := exec_driverKept he
    refine ⟨exec_i_le he h.i_le, exec_pc_le he (by omega) (by omega) h.entry_le, exec_entry_le he (by omega) h.entry_le,
      ?_, exec_wf i _ _ he h.mem_wf, haltRecordTrue_of_running (hrun.trans hf.ready.running)⟩
    rw [driver.phase, driver.cfg]
    exact h.phase_le
  · have back : s.advance.pc - 2 = s.pc := by simp
    rw [back, encodeWord_of_decodeWord hd, ← hf.fetched]
    refine h.halt ?_
    rintro rfl
    simp at hcause

end State.Inv

/-- Settles O58: each case of a step keeps the invariant. -/
theorem stepKeepsInvariant : Obligations.StepKeepsInvariant := by
  intro s t h hstep
  cases step_cases hstep with
  | idle => exact h
  | frameEnd hr => exact h.frameEnd hr
  | shutdown _ hp => exact h.stop.endSlot hp
  | waiting ready r =>
    have kept := kept_waitingCycle s r
    have hphase : (s.waitingCycle r).phase = s.phase := kept .phase (by simp)
    have hcfg : (s.waitingCycle r).cfg = s.cfg := kept .cfg (by simp)
    exact (h.waitingCycle ready.running r).endSlot (by rw [hphase, hcfg]; exact ready.slot)
  | fetchFault ready _ hf =>
    rw [raise_halts s _ _ (by simp), ← hf]
    exact (h.halt (by simp)).endSlot ready.slot
  | unknown w hf =>
    exact (h.raiseUnknown hf).endOfCycle (driverKept_raise s _ _ _) hf.ready.slot
  | run w hf i hd u he => exact (h.of_exec hf hd he).endOfCycle (exec_driverKept he) hf.ready.slot

end Sys2Proof.Machine
end

section
/-!
PROOFS. Memory (20_memory.md): the two instructions that store, and what every piece of state holds after power-on (10_state.md R37).
-/
namespace Sys2Proof.Machine

/-- Settles O53: no timer, no key and no end of a cycle touches a byte of memory, so an instruction that lists it among its writes ran. The
fetch advance moves pc only, so the transfer addresses are those of the state before the step. -/
theorem memoryChangesOnlyByStores : Obligations.MemoryChangesOnlyByStores := by
  intro s t a h hp
  obtain ⟨i, hi, hw⟩ := step_changes_runs (p := .byte a) h hp
  rcases hw with ⟨x, rfl, k, hk, ha⟩ | ⟨x, rfl, r, hr, ha⟩
  · exact .inl ⟨x, hi, k, hk, ha⟩
  · exact .inr ⟨x, hi, r, hr, ha⟩

/-- The font ends below 0x200 (00_scope.md R6), so all of its bytes stand from FONT_BASE on (20_memory.md R59). -/
theorem unlisted_font (fb : Fin 433) {k : Nat} (hk : k < 80) : unlisted fb.val (fb.val + k) = fontBytes.getD k 0 := by
  have hlow : fb.val + k < 0x200 := by omega
  rw [unlisted, if_pos hlow, if_pos ⟨by omega, by omega⟩, Nat.add_sub_cancel_left]

theorem unlisted_outside_font {fb a : Nat} (h : ¬(fb ≤ a ∧ a < fb + 80)) : unlisted fb a = 0 := by
  rw [unlisted, if_neg h, ite_self]

/-- After power-on nothing is written, so every address reads as its power-on content. -/
@[simp] theorem powerOn_byteAt (c : Config) (a : Nat) : (State.powerOn c).byteAt a = unlisted c.fontBase.val a := rfl

@[simp] theorem powerOn_reg (c : Config) (x : Reg) : (State.powerOn c).reg x = 0 := Vector.getElem_replicate x.isLt

@[simp] theorem powerOn_entry (c : Config) (j : Fin 16) : (State.powerOn c).entry j = 0 := Vector.getElem_replicate j.isLt

@[simp] theorem powerOn_pixel (c : Config) (y : Fin 32) (x : Fin 64) : (State.powerOn c).pixel y x = false := by
  show ((Vector.replicate 32 (Vector.replicate 64 false))[y.val])[x.val] = false
  rw [Vector.getElem_replicate, Vector.getElem_replicate]

/-- Settles O56: the fields are those of `State.powerOn`; memory holds the font at FONT_BASE and 0 elsewhere. -/
theorem powerOnValues : Obligations.PowerOnValues := by
  rintro c _ rfl
  refine ⟨powerOn_reg c, rfl, rfl, rfl, powerOn_entry c, rfl, rfl, rfl, powerOn_pixel c, rfl, rfl, rfl, rfl, rfl, ?_, ?_⟩
  · intro k hk
    rw [powerOn_byteAt, unlisted_font c.fontBase hk]
    rfl
  · intro a ha
    rw [powerOn_byteAt, unlisted_outside_font ha]

end Sys2Proof.Machine
end

section
/-!
PROOFS. Encoding (30_encoding.md): decoder and encoder undo each other, and the mask and match columns of the opcode table select what the
decoder answers (R74, R75, R78).
-/
namespace Sys2Proof

/-! ## The decoder after the encoder -/

theorem wordA_injective (op : BitVec 4) : Function.Injective (wordA op) :=
  Function.LeftInverse.injective (nnnField_wordA op)

theorem wf_sys_iff (nnn : Addr) : (Instr.sys nnn).wf = true ↔ nnn ≠ 0x0E0#12 ∧ nnn ≠ 0x0EE#12 := by
  simp [Instr.wf]

/-- The decoder reads its class from the operation field, its row from N or NN, and the operands from the fields the encoder put them in; SYS
alone shares its class with words of other rows. -/
theorem decodeWord_encodeWord {i : Instr} (h : i.wf = true) : decodeWord (encodeWord i) = .ok i := by
  cases i with
  | sys nnn =>
    obtain ⟨hcls, hret⟩ := (wf_sys_iff nnn).1 h
    have ncls : wordA 0x0#4 nnn ≠ 0x00E0#16 := (wordA_injective 0x0).ne hcls
    have nret : wordA 0x0#4 nnn ≠ 0x00EE#16 := (wordA_injective 0x0).ne hret
    simp [encodeWord, decodeWord, ncls, nret]
  | cls | ret => rfl
  | _ => simp [encodeWord, decodeWord]

/-- The two bytes of a word decode as the word does, and what follows them is left over (R70). -/
theorem decode_wordBytes_append {w : Word} {i : Instr} (rest : List Byte) (h : decodeWord w = .ok i) :
    decode (wordBytes w ++ rest) = .ok (i, rest) := by
  simp only [wordBytes, List.cons_append, List.nil_append, decode, hiByte_append_loByte, h]

/-- Settles O1: on the word by the fields of a composed word, on bytes because they join to the word again. -/
theorem encodeThenDecode : Obligations.EncodeThenDecode := fun _ rest h =>
  ⟨decodeWord_encodeWord h, decode_wordBytes_append rest (decodeWord_encodeWord h)⟩

/-! ## A composed word as shifted fields -/

theorem ofNat_val_eq_setWidth_nibble (x : Fin 16) : BitVec.ofNat 16 x.val = (nibble x).setWidth 16 := by
  apply BitVec.eq_of_toNat_eq; simp [nibble]

theorem wordA_eq_or (op : BitVec 4) (a : Addr) : wordA op a = op.setWidth 16 <<< 12 ||| a.setWidth 16 := by
  refine BitVec.eq_of_getLsbD_eq fun k hk => ?_
  rw [wordA_bit]
  interval_cases k <;> simp

theorem wordXI_eq_or (op : BitVec 4) (x : Reg) (nn : Byte) :
    wordXI op x nn = op.setWidth 16 <<< 12 ||| BitVec.ofNat 16 x.val <<< 8 ||| nn.setWidth 16 := by
  rw [ofNat_val_eq_setWidth_nibble]
  refine BitVec.eq_of_getLsbD_eq fun k hk => ?_
  rw [wordXI_bit]
  interval_cases k <;> simp

theorem wordXY_eq_or (op : BitVec 4) (x y : Reg) (n : Fin 16) :
    wordXY op x y n =
      op.setWidth 16 <<< 12 ||| BitVec.ofNat 16 x.val <<< 8 ||| BitVec.ofNat 16 y.val <<< 4 ||| BitVec.ofNat 16 n.val := by
  simp only [ofNat_val_eq_setWidth_nibble]
  refine BitVec.eq_of_getLsbD_eq fun k hk => ?_
  rw [wordXY_bit]
  interval_cases k <;> simp

/-! ## The encoder after the decoder -/

/-- Only SYS could be ill-formed, and the two words that would make it so decode to CLS and RET. -/
theorem wf_of_decodeWord {w : Word} {i : Instr} (h : decodeWord w = .ok i) : i.wf = true := by
  cases i with
  | sys nnn =>
    obtain rfl := encodeWord_of_decodeWord h
    refine (wf_sys_iff nnn).2 ⟨?_, ?_⟩
    · rintro rfl; exact absurd h (by decide)
    · rintro rfl; exact absurd h (by decide)
  | _ => rfl

open Laws.RowMatch in
/-- Every instruction's word has the fixed bits of its row. -/
theorem encodeWord_and_mask (i : Instr) : encodeWord i &&& (encRow i).mask = (encRow i).pat :=
  i.casesOn (motive := Statement) sys cls ret jp call seImm sneImm seReg ldImm addImm ldReg orReg andReg xorReg addReg
    sub shr subn shl sneReg ldI jpOff rnd drw skp sknp ldFromDt ldKey ldDt ldSt addI ldFont bcd store load

theorem and_or_and_not (w m : Word) : w &&& m ||| w &&& ~~~m = w := by
  rw [← BitVec.and_or_distrib_left, BitVec.or_not_self, BitVec.and_allOnes]

theorem encodeWord_eq_pat_or (i : Instr) : encodeWord i = (encRow i).pat ||| (encodeWord i &&& ~~~(encRow i).mask) := by
  rw [← encodeWord_and_mask, and_or_and_not]

/-- Settles O2: a word is composed of its fields in each format, and what was decoded encodes to the word. -/
theorem decodeThenEncode : Obligations.DecodeThenEncode := by
  refine ⟨fun w => ⟨?_, ?_, ?_⟩, fun w i h => ?_⟩
  · exact (wordXY_fields w).symm.trans (wordXY_eq_or _ _ _ _)
  · exact (wordXI_fields w).symm.trans (wordXI_eq_or _ _ _)
  · exact (wordA_fields w).symm.trans (wordA_eq_or _ _)
  · obtain rfl := encodeWord_of_decodeWord h
    exact ⟨wf_of_decodeWord h, rfl, encodeWord_eq_pat_or i⟩

/-! ## The row that mask and match select -/

/-- A field inside the mask is that of the match. -/
theorem extractLsb'_eq_of_and {w m p : Word} {start len : Nat} (h : w &&& m = p)
    (hm : m.extractLsb' start len = BitVec.allOnes len) : w.extractLsb' start len = p.extractLsb' start len := by
  rw [← h, BitVec.extractLsb'_and, hm, BitVec.and_allOnes]

theorem opField_eq_of_and {w m p : Word} (h : w &&& m = p) (hm : opField m = BitVec.allOnes 4) : opField w = opField p :=
  extractLsb'_eq_of_and h hm

theorem nField_eq_of_and {w m p : Word} (h : w &&& m = p) (hm : nField m = 15) : nField w = nField p :=
  congrArg BitVec.toFin (extractLsb'_eq_of_and h (BitVec.eq_of_toFin_eq hm))

theorem nnField_eq_of_and {w m p : Word} (h : w &&& m = p) (hm : nnField m = BitVec.allOnes 8) : nnField w = nnField p :=
  extractLsb'_eq_of_and h hm

/-- Settles O3: every mask holds the operation field, which selects the decoder's class; in a class of several rows it holds N, NN or the
whole word besides. -/
theorem maskAndMatchSelectTheRow : Obligations.MaskAndMatchSelectTheRow := by
  intro w i hm hs
  unfold decodeWord
  cases i with
  | sys nnn =>
    dsimp only [encRow] at hm
    rw [opField_eq_of_and hm (by decide)]
    obtain ⟨hcls, hret⟩ := hs nnn rfl
    exact ⟨_, (if_neg hcls).trans (if_neg hret), by rfl⟩
  | cls | ret =>
    obtain rfl := BitVec.and_allOnes.symm.trans hm
    exact ⟨_, rfl, by rfl⟩
  | seReg | sneReg | ldReg | orReg | andReg | xorReg | addReg | sub | shr | subn | shl =>
    dsimp only [encRow] at hm
    rw [opField_eq_of_and hm (by decide), nField_eq_of_and hm (by decide)]
    exact ⟨_, rfl, by rfl⟩
  | skp | sknp | ldFromDt | ldKey | ldDt | ldSt | addI | ldFont | bcd | store | load =>
    dsimp only [encRow] at hm
    rw [opField_eq_of_and hm (by decide), nnField_eq_of_and hm (by decide)]
    exact ⟨_, rfl, by rfl⟩
  | _ =>
    dsimp only [encRow] at hm
    rw [opField_eq_of_and hm (by decide)]
    exact ⟨_, rfl, by rfl⟩

end Sys2Proof

namespace Sys2Proof.Machine

/-! ## The step -/

/-- Every state is in one of the situations that a step finds, in the priority of 60_exceptions.md R210; the decoder answers every word and
every instruction a next state. -/
theorem exists_stepCase (s : State) : ∃ t, StepCase s t := by
  by_cases hr : s.status = .running
  case neg => exact ⟨_, .idle hr⟩
  by_cases hp : s.phase < s.cfg.cyclesPerFrame
  case neg => exact ⟨_, .frameEnd hr hp⟩
  cases hs : s.input.shutdown with
  | true => exact ⟨_, .shutdown hr hp hs⟩
  | false =>
    have ready : s.Ready := ⟨hr, hp, hs⟩
    cases hw : s.wait with
    | some r => exact ⟨_, .waiting ready r hw⟩
    | none =>
      cases hf : s.fetch with
      | none => exact ⟨_, .fetchFault ready hw hf⟩
      | some w =>
        have fetches : s.Fetches w := ⟨ready, hw, hf⟩
        cases hd : decodeWord w with
        | error e => exact ⟨_, .unknown w fetches e hd⟩
        | ok i =>
          obtain ⟨u, hu, _⟩ := exec_next i s.advance
          exact ⟨_, .run w fetches i hd u hu⟩

/-- Settles O14: whatever the situation, its case is the step. -/
theorem everyStepAnswersNext : Obligations.EveryStepAnswersNext := fun s =>
  (exists_stepCase s).imp fun _ => step_of_case

end Sys2Proof.Machine
end

section
/-!
PROOFS. The cycle (40_cycle.md R91): what the driver adds to the instruction that a cycle runs, and the steps that halt or stop the engine
before any instruction runs.
-/
namespace Sys2Proof.Machine

/-! ## The end of a cycle -/

/-- A cycle that only sets the run status leaves the rest as it found it, but for the slot and the input. -/
theorem kept_setStatus_endSlot (s : State) (x : Status) :
    KeptExcept [.status, .phase, .inputs] s (s.setStatus x).endSlot :=
  ((kept_setStatus s x).mono (by simp)).trans ((kept_endSlot _).mono (by simp))

theorem kept_endCycle_endSlot (s : State) : KeptExcept [.kprev, .phase, .inputs] s s.endCycle.endSlot :=
  ((kept_endCycle s).mono (by simp)).trans ((kept_endSlot _).mono (by simp))

/-- The keypad sample depends on the inputs alone, which no handler writes. -/
theorem DriverKept.keys {s t : State} (k : DriverKept s t) : t.keys = s.keys := by
  simp only [State.keys, State.input, k.inputs, k.drawNo]

/-- What the driver's own parts hold after a cycle, where the instruction left them as they were before it (60_exceptions.md R217). -/
theorem DriverKept.endOfCycle {s t : State} (k : DriverKept s t) :
    t.endCycle.endSlot.kprev = (if t.status = .running then s.keys else s.kprev) ∧
      t.endCycle.endSlot.phase = s.phase + 1 ∧ t.endCycle.endSlot.inputs = s.inputs.tail ∧
      t.endCycle.endSlot.drawNo = s.drawNo + 1 := by
  rw [endCycle_eq, ← k.keys, ← k.kprev, ← k.phase, ← k.inputs, ← k.drawNo]
  exact ⟨rfl, rfl, rfl, rfl⟩

/-! ## The steps -/

/-- Settles O6: an instruction always answers a next state, and that state is as before the cycle in the parts that the driver then moves. -/
theorem stepRunsDecodedInstruction : Obligations.StepRunsDecodedInstruction := by
  intro s w i hf hd
  obtain ⟨u, hu, _⟩ := exec_next i s.advance
  refine ⟨rfl, kept_setPc s _, fun f he => ?_, fun r he => ?_, fun t he => ?_⟩
  · cases hu.symm.trans he
  · cases hu.symm.trans he
  · have driver : DriverKept s.advance t := exec_driverKept he
    exact ⟨_, step_of_runs ⟨w, hf, hd⟩ he, kept_endCycle_endSlot t, driver.endOfCycle⟩

/-- Settles O8: the raise puts back the pc that the fetch had not yet advanced, so it writes the run status alone. -/
theorem fetchOutOfRangeHalts : Obligations.FetchOutOfRangeHalts := by
  intro s ready hw hpc
  have hstep := step_of_case (.fetchFault ready hw ((fetch_eq_none s).2 hpc))
  have raised : s.raise .outOfBoundsAddress s.pc none = s.setStatus (.halted .outOfBoundsAddress s.pc none) :=
    raise_halts s s.pc none (by simp)
  rw [raised] at hstep
  exact ⟨_, hstep, rfl, kept_setStatus_endSlot s _⟩

/-- Where no cycle ever runs, the end of the frame honours the request before it ticks (60_exceptions.md R227, D30). -/
theorem frameEnd_of_shutdown {s : State} (hc : s.cfg.cyclesPerFrame = 0) (hs : s.input.shutdown = true) :
    s.frameEnd = (s.setStatus .stopped).consumeInput := by
  rw [State.frameEnd, if_pos hc, if_pos hs]

/-- Settles O12: a cycle tests the request before anything else, the end of a frame does where the frame has no cycles. -/
theorem shutdownStopsTheEngine : Obligations.ShutdownStopsTheEngine := by
  rintro s hr hs (hp | hc)
  · exact ⟨_, step_of_case (.shutdown hr hp hs), rfl, kept_setStatus_endSlot s _⟩
  · have hstep := step_of_case (.frameEnd hr (by omega))
    rw [frameEnd_of_shutdown hc hs] at hstep
    exact ⟨_, hstep, rfl, ((kept_setStatus s _).mono (by simp)).trans ((kept_consumeInput _).mono (by simp))⟩

end Sys2Proof.Machine
end

section
/-!
PROOFS. Registers, arithmetic, logic (41_arith_logic.md): the instructions whose effect is one write of V[X].
-/
namespace Sys2Proof.Machine

/-- The whole effect of an instruction that answers one register write: the value read back, and the frame. -/
theorem exec_setReg_effect {i : Instr} {s : State} {x : Reg} {b : Byte} (h : exec i s = .next (s.setReg x b)) :
    ∃ t, exec i s = .next t ∧ t.reg x = b ∧ KeptExcept [.reg x] s t :=
  ⟨s.setReg x b, h, reg_setReg_same s x b, kept_setReg s x b⟩

/-- Settles O22: each of the two instructions is one write of V[X], of the byte or of the other register. -/
theorem loadAndCopyRegister : Obligations.LoadAndCopyRegister := by
  intro x y nn s
  have load : exec (.ldImm x nn) s = .next (s.setReg x nn) := rfl
  have copy : exec (.ldReg x y) s = .next (s.setReg x (s.reg y)) := rfl
  exact ⟨exec_setReg_effect load, exec_setReg_effect copy⟩

end Sys2Proof.Machine
end

section
/-!
PROOFS. Skips on registers (42_skips.md): the instructions whose effect is one conditional advance of pc.
-/
namespace Sys2Proof.Machine

/-- The whole effect of an instruction that answers one conditional skip: pc by the comparison that the flag decides, and the frame. -/
theorem exec_skipIf_effect {i : Instr} {s : State} {c : Bool} {P : Prop} [Decidable P] (h : exec i s = .next (s.skipIf c))
    (hc : c = true ↔ P) :
    ∃ t, exec i s = .next t ∧ t.pc = (if P then s.pc + 2 else s.pc) ∧ KeptExcept [.pc] s t := by
  have pc_eq : (s.skipIf c).pc = if P then s.pc + 2 else s.pc := by simp only [skipIf_eq, setPc_pc, hc]
  exact ⟨s.skipIf c, h, pc_eq, kept_skipIf s c⟩

/-- Settles O28: each of the four instructions is one conditional skip, on the flag that decides its comparison. -/
theorem registerSkips : Obligations.RegisterSkips := by
  intro x y nn s
  have seImm : exec (.seImm x nn) s = .next (s.skipIf (s.reg x == nn)) := rfl
  have sneImm : exec (.sneImm x nn) s = .next (s.skipIf (s.reg x != nn)) := rfl
  have seReg : exec (.seReg x y) s = .next (s.skipIf (s.reg x == s.reg y)) := rfl
  have sneReg : exec (.sneReg x y) s = .next (s.skipIf (s.reg x != s.reg y)) := rfl
  exact ⟨exec_skipIf_effect seImm beq_iff_eq, exec_skipIf_effect sneImm bne_iff_ne,
    exec_skipIf_effect seReg beq_iff_eq, exec_skipIf_effect sneReg bne_iff_ne⟩

end Sys2Proof.Machine
end

section
/-!
PROOFS. Jumps (43_subroutines_jumps.md): the instructions whose effect is one write of pc.
-/
namespace Sys2Proof.Machine

/-- Settles O30: 1NNN is one write of pc, and the zero-extended target has the value of NNN. -/
theorem jumpGoesToTarget : Obligations.JumpGoesToTarget := by
  intro nnn s
  have jump : exec (.jp nnn) s = .next (s.setPc (zext16 nnn)) := rfl
  have target : (s.setPc (zext16 nnn)).pc.toNat = nnn.toNat := by rw [setPc_pc, zext16_toNat]
  exact ⟨_, jump, target, kept_setPc s _⟩

end Sys2Proof.Machine
end

section
/-!
PROOFS. Timers (44_timers.md): the moves between V[X] and the timers, and the tone that follows ST.
-/
namespace Sys2Proof.Machine

/-- The tone signal is on exactly while ST is not zero (10_state.md R27, R215). -/
theorem toneActive_iff_st_ne_zero (s : State) : s.toneActive = true ↔ s.st ≠ 0 := by
  rw [State.toneActive, decide_eq_true_iff]
  bv_omega

/-- Settles O38: FX07 is one write of V[X], FX15 one of DT, FX18 one of ST; the tone is read from the ST just written. -/
theorem timerTransfers : Obligations.TimerTransfers := by
  intro x s
  have readDt : exec (.ldFromDt x) s = .next (s.setReg x s.dt) := rfl
  have writeDt : exec (.ldDt x) s = .next (s.setDt (s.reg x)) := rfl
  have writeSt : exec (.ldSt x) s = .next (s.setSt (s.reg x)) := rfl
  have tone : (s.setSt (s.reg x)).toneActive = true ↔ s.reg x ≠ 0 := by
    rw [toneActive_iff_st_ne_zero, setSt_st]
  exact ⟨exec_setReg_effect readDt,
    ⟨_, writeDt, setDt_dt s _, kept_setDt s _⟩,
    ⟨_, writeSt, setSt_st s _, tone, kept_setSt s _⟩⟩

end Sys2Proof.Machine
end

section
/-!
PROOFS. The address register (45_address_register.md): the load of I with the immediate address.
-/
namespace Sys2Proof.Machine

/-- Settles O41: ANNN is one write of I, and the zero-extended immediate has the value of NNN. -/
theorem addressImmediateLoad : Obligations.AddressImmediateLoad := by
  intro nnn s
  have load : exec (.ldI nnn) s = .next (s.setI (zext16 nnn)) := rfl
  have value : (s.setI (zext16 nnn)).i.toNat = nnn.toNat := by rw [setI_i, zext16_toNat]
  exact ⟨_, load, value, kept_setI s _⟩

end Sys2Proof.Machine
end

section
/-!
PROOFS. The display (46_display.md): 00E0, whose effect is one write of the display buffer.
-/
namespace Sys2Proof.Machine

/-- After a write of the display buffer the pixels are those of the written picture (10_state.md R29). -/
@[simp] theorem setDisplay_pixel (s : State) (e : Display) (y : Fin 32) (x : Fin 64) :
    (s.setDisplay e).pixel y x = e.pixel y x := rfl

/-- Settles O44: 00E0 is one write of the display buffer, and every pixel of the blank picture is 0. -/
theorem clearBlanksTheScreen : Obligations.ClearBlanksTheScreen := by
  intro s
  have clear : exec .cls s = .next (s.setDisplay Display.blank) := rfl
  have dark : ∀ y x, (s.setDisplay Display.blank).pixel y x = false := fun y x => by
    rw [setDisplay_pixel, pixel_blank]
  exact ⟨_, clear, dark, kept_setDisplay s _⟩

end Sys2Proof.Machine
end

section
/-!
PROOFS. The timers in a step (60_exceptions.md R214 to R217): what the tick does, what any step does to DT and ST, and the frame that is
made of cycles and one tick.
-/
namespace Sys2Proof.Machine

/-! ## The tick -/

/-- `t` is `s` after the tick that ends a frame: both timers counted down, the frame position back to 0, and nothing else, the inputs
included where cycles run. -/
structure Ticked (s t : State) : Prop where
  /-- DT down by one, never below zero (R214). -/
  dt : t.dt = countDown s.dt
  /-- ST down by one, never below zero (R214). -/
  st : t.st = countDown s.st
  /-- A new frame begins (R217). -/
  phase : t.phase = 0
  /-- The frame of the tick. -/
  kept : KeptExcept [.dt, .st, .phase, .inputs] s t
  /-- A tick takes a sample for the shutdown test only, where no cycle ever runs (D30). -/
  inputs : 0 < s.cfg.cyclesPerFrame → Part.inputs.same s t

theorem kept_tick_setPhase (s : State) (n : Nat) : KeptExcept [.dt, .st, .phase] s (s.tick.setPhase n) :=
  ((kept_tick s).mono (by simp)).trans ((kept_setPhase _ _).mono (by simp))

/-- The end of a frame is the tick, but where no cycle ever runs and a shutdown request stops the engine first (R217, R227, D30). -/
theorem frameEnd_cases (s : State) :
    ((s.cfg.cyclesPerFrame = 0 ∧ s.input.shutdown = true) ∧ s.frameEnd = (s.setStatus .stopped).consumeInput) ∨
      (s.cfg.cyclesPerFrame = 0 → s.input.shutdown = false) ∧ Ticked s s.frameEnd := by
  have kept := kept_tick_setPhase s 0
  unfold State.frameEnd
  split
  case isTrue hc =>
    split
    case isTrue hs => exact .inl ⟨⟨hc, hs⟩, rfl⟩
    case isFalse hs =>
      refine .inr ⟨fun _ => by simpa using hs, rfl, rfl, rfl, ?_, fun hpos => absurd hc hpos.ne'⟩
      exact (kept.mono (by simp)).trans ((kept_consumeInput _).mono (by simp))
  case isFalse hc =>
    exact .inr ⟨fun h0 => absurd h0 hc, rfl, rfl, rfl, kept.mono (by simp), fun _ => kept .inputs (by simp)⟩

theorem Ticked.dt_toNat {s t : State} (h : Ticked s t) : t.dt.toNat = s.dt.toNat - 1 :=
  h.dt ▸ countDown_toNat s.dt

theorem Ticked.st_toNat {s t : State} (h : Ticked s t) : t.st.toNat = s.st.toNat - 1 :=
  h.st ▸ countDown_toNat s.st

/-- With no slot left a running engine ends the frame. -/
theorem step_frameEnd {s : State} (hr : s.status = .running) (hp : s.cfg.cyclesPerFrame ≤ s.phase) :
    step s = .next s.frameEnd :=
  step_of_case (.frameEnd hr (by omega))

/-- Settles O16: without a shutdown request before it, the end of the frame is the tick. -/
theorem tickCountsDown : Obligations.TickCountsDown := by
  intro s hr hp hs
  rcases frameEnd_cases s with ⟨⟨hc, hstop⟩, _⟩ | ⟨_, tick⟩
  · simp [hs hc] at hstop
  · exact ⟨_, step_frameEnd hr hp, tick.dt_toNat, tick.st_toNat, tick.phase, tick.kept, tick.inputs⟩

/-! ## The timers in any step -/

/-- What a step does to the timers: nothing, a tick of both at the end of a frame, or the write of one by FX15 or FX18. -/
theorem step_timers {s t : State} (h : step s = .next t) :
    (t.dt = s.dt ∧ t.st = s.st) ∨
      (s.cfg.cyclesPerFrame ≤ s.phase ∧ t.dt = countDown s.dt ∧ t.st = countDown s.st) ∨
      (∃ x, s.Runs (.ldDt x) ∧ t.dt = s.reg x ∧ t.st = s.st) ∨
      ∃ x, s.Runs (.ldSt x) ∧ t.dt = s.dt ∧ t.st = s.reg x := by
  have same : ∀ {ps}, KeptExcept ps s t → Part.dt ∉ ps → Part.st ∉ ps → t.dt = s.dt ∧ t.st = s.st :=
    fun k hdt hst => ⟨k .dt hdt, k .st hst⟩
  rcases step_writes h with ⟨hp, _⟩ | k | ⟨r, _, k⟩ | ⟨i, hi, k⟩
  · rcases step_of_no_slot h hp with rfl | rfl
    · exact .inl ⟨rfl, rfl⟩
    · rcases frameEnd_cases s with ⟨_, e⟩ | ⟨_, tick⟩
      · rw [e]; exact .inl ⟨rfl, rfl⟩
      · exact .inr (.inl ⟨hp, tick.dt, tick.st⟩)
  · exact .inl (same k (by simp) (by simp))
  · exact .inl (same k (by simp) (by simp))
  · by_cases hdt : Part.dt ∈ writes i s.advance
    · obtain ⟨x, rfl⟩ := forall_mem_writes_writtenBy i _ _ hdt
      cases (step_of_runs hi rfl).symm.trans h
      rw [endCycle_eq]
      exact .inr (.inr (.inl ⟨x, hi, rfl, rfl⟩))
    by_cases hst : Part.st ∈ writes i s.advance
    · obtain ⟨x, rfl⟩ := forall_mem_writes_writtenBy i _ _ hst
      cases (step_of_runs hi rfl).symm.trans h
      rw [endCycle_eq]
      exact .inr (.inr (.inr ⟨x, hi, rfl, rfl⟩))
    exact .inl (same k (by simp [hdt]) (by simp [hst]))

/-- Settles O39: of the ways a step treats the timers, two change DT; a tick that changes it found it above 0. -/
theorem delayTimerMovesOnlyByTickOrFX15 : Obligations.DelayTimerMovesOnlyByTickOrFX15 := by
  intro s t h hne
  rcases step_timers h with ⟨e, _⟩ | ⟨hp, e, _⟩ | ⟨x, hi, e, _⟩ | ⟨x, _, e, _⟩
  · exact absurd e hne
  · have hn : t.dt.toNat = s.dt.toNat - 1 := e ▸ countDown_toNat s.dt
    have : t.dt.toNat ≠ s.dt.toNat := fun he => hne (BitVec.eq_of_toNat_eq he)
    exact .inl ⟨hp, by omega⟩
  · exact .inr ⟨x, hi, e⟩
  · exact absurd e hne

/-- A step with a slot left in the frame changes DT to the V[X] of an FX15 only, and ST to that of an FX18 only. -/
theorem cycle_timers {s t : State} (h : step s = .next t) (hp : s.phase < s.cfg.cyclesPerFrame) :
    (t.dt = s.dt ∨ ∃ x, s.Runs (.ldDt x) ∧ t.dt = s.reg x) ∧
      (t.st = s.st ∨ ∃ x, s.Runs (.ldSt x) ∧ t.st = s.reg x) := by
  rcases step_timers h with ⟨d, e⟩ | ⟨hp', _⟩ | ⟨x, hi, d, e⟩ | ⟨x, hi, d, e⟩
  · exact ⟨.inl d, .inl e⟩
  · omega
  · exact ⟨.inr ⟨x, hi, d⟩, .inl e⟩
  · exact ⟨.inl d, .inr ⟨x, hi, e⟩⟩

/-! ## The frame -/

/-- An engine that has stopped stays as it is (60_exceptions.md R220). -/
theorem step_of_not_running {s t : State} (h : step s = .next t) (hr : s.status ≠ .running) : t = s := by
  cases (step_of_case (.idle hr)).symm.trans h
  rfl

/-- A step of a running engine with a slot left takes one slot (60_exceptions.md R217). -/
theorem step_takes_slot {s t : State} (h : step s = .next t) (hr : s.status = .running)
    (hp : s.phase < s.cfg.cyclesPerFrame) : t.phase = s.phase + 1 := by
  have slot : ∀ {u : State}, u.phase = s.phase → u.endSlot.phase = s.phase + 1 := fun e => congrArg (· + 1) e
  have cycle : ∀ {u : State}, u.phase = s.phase → u.endCycle.endSlot.phase = s.phase + 1 := fun {u} e =>
    slot ((kept_endCycle u .phase (by simp)).trans e)
  cases step_cases h with
  | idle hn => exact absurd hr hn
  | frameEnd _ hn => exact absurd hp hn
  | shutdown => rfl
  | waiting _ r => exact slot (kept_waitingCycle s r .phase (by simp))
  | fetchFault => exact slot (driverKept_raise s _ _ _).phase
  | unknown => exact cycle (driverKept_raise s _ _ _).phase
  | run _ _ _ _ _ he => exact cycle (exec_driverKept he).phase

/-- The first of several steps. -/
theorem runSteps_succ_next {k : Nat} {s t : State} (h : runSteps (k + 1) s = .next t) :
    ∃ u, step s = .next u ∧ runSteps k u = .next t := by
  obtain ⟨u, hu⟩ := everyStepAnswersNext s
  exact ⟨u, hu, runSteps_succ k hu ▸ h⟩

/-- An engine that still runs after some steps ran before them. -/
theorem running_of_runSteps {k : Nat} {s t : State} (h : runSteps k s = .next t) (ht : t.status = .running) :
    s.status = .running := by
  induction k generalizing s with
  | zero => cases h; exact ht
  | succ k ih =>
    obtain ⟨u, hu, hk⟩ := runSteps_succ_next h
    by_contra hs
    exact hs (step_of_not_running hu hs ▸ ih hk)

/-- Within a frame the phase counts the steps, as long as the engine runs. -/
theorem runSteps_phase {k : Nat} {s t : State} (h : runSteps k s = .next t) (ht : t.status = .running)
    (hk : s.phase + k ≤ s.cfg.cyclesPerFrame) : t.phase = s.phase + k ∧ t.cfg = s.cfg := by
  induction k generalizing s with
  | zero => cases h; exact ⟨rfl, rfl⟩
  | succ k ih =>
    have hs := running_of_runSteps h ht
    obtain ⟨u, hu, hrest⟩ := runSteps_succ_next h
    have hphase : u.phase = s.phase + 1 := step_takes_slot hu hs (by omega)
    have hcfg : u.cfg = s.cfg := configurationIsFixed s u hu
    obtain ⟨hp, hc⟩ := ih hrest (by rw [hphase, hcfg]; omega)
    exact ⟨by omega, hc.trans hcfg⟩

/-- Settles O17: the phase counts the cycles, so each of them has a slot and counts no timer down, and the step after the
last one has none. -/
theorem frameIsCyclesThenOneTick : Obligations.FrameIsCyclesThenOneTick := by
  intro s t k h0 hk h ht
  obtain ⟨hphase, hcfg⟩ := runSteps_phase h ht (by omega)
  refine ⟨by omega, fun j u v hj hu hv => ?_, fun hlast u hu hrun => ?_⟩
  · by_cases hr : u.status = .running
    · obtain ⟨hup, huc⟩ := runSteps_phase hu hr (by omega)
      exact cycle_timers hv (by rw [hup, huc]; omega)
    · obtain rfl := step_of_not_running hv hr
      exact ⟨.inl rfl, .inl rfl⟩
  · cases (step_frameEnd ht (by rw [hcfg]; omega)).symm.trans hu
    rcases frameEnd_cases t with ⟨_, e⟩ | ⟨_, tick⟩
    · rw [e] at hrun; cases hrun
    · exact ⟨tick.phase, tick.dt_toNat, tick.st_toNat⟩

end Sys2Proof.Machine
end

section
/-!
PROOFS. Faults (60_exceptions.md): how a step of a running engine can halt it, said once, with the state it leaves and the cause of the
fault (40_cycle.md R97); the two stack faults forwards.
-/
namespace Sys2Proof.Machine

/-! ## The steps that halt -/

/-- The situation in which a step raises the fault `f` and halts (60_exceptions.md R200 to R204). -/
inductive State.Causes (s : State) : Fault → Prop where
  /-- A fetch above 0xFFE (R201, D2). -/
  | outOfBounds (h : 0xFFE < s.pc.toNat) : s.Causes .outOfBoundsAddress
  /-- A call on a full stack (R202). -/
  | overflow (hs : s.sp.val = 16) (nnn : Addr) (h : s.Runs (.call nnn)) : s.Causes .stackOverflow
  /-- A return on an empty stack (R203). -/
  | underflow (hs : s.sp.val = 0) (h : s.Runs .ret) : s.Causes .stackUnderflow
  /-- Under the Fatal policy, a word outside the table or SYS (R204, D7). -/
  | unknown (hp : s.cfg.unknownPolicy = .fatal) (w : Word) (hf : s.fetch = some w)
      (hd : (∃ e, decodeWord w = .error e) ∨ ∃ nnn, decodeWord w = .ok (.sys nnn)) : s.Causes .unknownInstruction

/-- The end of a cycle that halted does not latch the keys (40_cycle.md R97). -/
theorem endCycle_of_halted {s : State} {f : Fault} {a : Word} {w : Option Word} (h : s.status = .halted f a w) :
    s.endCycle = s :=
  if_neg (by simp [h])

theorem endCycle_status (s : State) : s.endCycle.status = s.status :=
  kept_endCycle s .status (by simp)

/-- The engine halts where the cycle, before its latch, halts. -/
theorem endOfCycle_of_halted {u : State} {f : Fault} {a : Word} {w : Option Word}
    (h : u.endCycle.endSlot.status = .halted f a w) : u.status = .halted f a w :=
  (endCycle_status u).symm.trans h

/-- The end of a frame goes on or stops: it raises no fault (60_exceptions.md R217, R227). -/
theorem frameEnd_not_halted {s : State} (hr : s.status = .running) (f : Fault) (a : Word) (w : Option Word) :
    s.frameEnd.status ≠ .halted f a w := by
  rcases frameEnd_cases s with ⟨_, e⟩ | ⟨_, tick⟩
  · simp [e]
  · have hs : s.frameEnd.status = s.status := tick.kept .status (by simp)
    simp [hs, hr]

/-- An instruction that halts the engine leaves the state as it was before the fetch advance, records the word fetched, and is one of the
three that raise. -/
theorem exec_halts {s u : State} {v : Word} {i : Instr} {f : Fault} {a : Word} {w : Option Word} (hf : s.Fetches v)
    (hd : decodeWord v = .ok i) (he : exec i s.advance = .next u) (h : u.status = .halted f a w) :
    u = s.setStatus (.halted f s.pc s.fetch) ∧ s.Causes f := by
  rcases exec_status he with hs | ⟨g, rfl, hcause⟩
  · have hu : u.status = .running := hs.trans hf.ready.running
    simp [hu] at h
  · have back : s.advance.pc - 2 = s.pc := by simp
    rw [back, encodeWord_of_decodeWord hd, ← hf.fetched] at h ⊢
    cases h
    refine ⟨rfl, ?_⟩
    rcases hcause with ⟨rfl, hs, nnn, rfl⟩ | ⟨rfl, hs, rfl⟩ | ⟨rfl, hp, nnn, rfl⟩
    · exact .overflow hs nnn ⟨v, hf, hd⟩
    · exact .underflow hs ⟨v, hf, hd⟩
    · exact .unknown hp v hf.fetched (.inr ⟨nnn, hd⟩)

/-- An unknown word halts the engine under the Fatal policy only, and leaves the state as it was. -/
theorem raiseUnknown_halts {s : State} {v : Word} {e : DecodeReject} {f : Fault} {a : Word} {w : Option Word}
    (hf : s.Fetches v) (hd : decodeWord v = .error e)
    (h : (s.raise .unknownInstruction s.pc (some v)).status = .halted f a w) :
    s.raise .unknownInstruction s.pc (some v) = s.setStatus (.halted f s.pc s.fetch) ∧ s.Causes f := by
  rcases raise_cases s .unknownInstruction s.pc (some v) with ⟨_, _, hr⟩ | ⟨hp, hr⟩ <;> rw [hr] at h ⊢
  · simp [hf.ready.running] at h
  · cases h
    rw [hf.fetched]
    exact ⟨rfl, .unknown (hp.resolve_left (by simp)) v hf.fetched (.inl ⟨e, hd⟩)⟩

/-- Whenever a step of a running engine halts it, it has written the true record and used the slot and the input, and nothing else; no key
was awaited, and the fault has its cause. -/
theorem step_halts {s t : State} {f : Fault} {a : Word} {w : Option Word} (hr : s.status = .running)
    (h : step s = .next t) (ht : t.status = .halted f a w) :
    t = (s.setStatus (.halted f s.pc s.fetch)).endSlot ∧ s.wait = none ∧ s.Causes f := by
  cases step_cases h with
  | idle hn => exact absurd hr hn
  | frameEnd => exact absurd ht (frameEnd_not_halted hr f a w)
  | shutdown => cases ht
  | waiting _ r =>
    have hs : (s.waitingCycle r).status = s.status := kept_waitingCycle s r .status (by simp)
    cases (hs.trans hr).symm.trans ht
  | fetchFault _ hw hf =>
    rw [raise_halts s _ _ (by simp)] at ht ⊢
    cases ht
    rw [hf]
    exact ⟨rfl, hw, .outOfBounds ((fetch_eq_none s).1 hf)⟩
  | unknown v hf e hd =>
    have hu := endOfCycle_of_halted ht
    obtain ⟨eq, cause⟩ := raiseUnknown_halts hf hd hu
    rw [endCycle_of_halted hu, eq]
    exact ⟨rfl, hf.noWait, cause⟩
  | run v hf i hd u he =>
    have hu := endOfCycle_of_halted ht
    obtain ⟨eq, cause⟩ := exec_halts hf hd he hu
    rw [endCycle_of_halted hu, eq]
    exact ⟨rfl, hf.noWait, cause⟩

/-- Settles O11: a step that halts writes the status, the slot and the input only, and each cause is one of the statement's four. -/
theorem faultsArePreciseAndCaused : Obligations.FaultsArePreciseAndCaused := by
  intro s t f a w hr h ht
  obtain ⟨rfl, hw, cause⟩ := step_halts hr h ht
  cases ht
  refine ⟨kept_setStatus_endSlot s _, rfl, rfl, hw, ?_⟩
  cases cause with
  | outOfBounds hpc => exact .inl ⟨rfl, hpc⟩
  | overflow hs nnn hi => exact .inr (.inl ⟨rfl, hs, nnn, hi⟩)
  | underflow hs hi => exact .inr (.inr (.inl ⟨rfl, hs, hi⟩))
  | unknown hp v hf hd => exact .inr (.inr (.inr ⟨rfl, hp, v, hf, hd⟩))

/-! ## The two stack faults -/

/-- An instruction that answers a raise of a stack fault halts the step that runs it, which changes the status, the slot and the
input only. -/
theorem step_of_stackFault {s : State} {i : Instr} {f : Fault} {w : Word} (hi : s.Runs i) (hf : f ≠ .unknownInstruction)
    (he : exec i s.advance = .next (s.advance.raiseInHandler f w)) :
    ∃ t, step s = .next t ∧ t.status = .halted f s.pc (some w) ∧ KeptExcept [.status, .phase, .inputs] s t := by
  have back : s.advance.raiseInHandler f w = s.setStatus (.halted f s.pc (some w)) := by
    rw [raiseInHandler_halts _ w hf, show s.advance.pc - 2 = s.pc by simp]
    rfl
  rw [back] at he
  have hstep := step_of_runs hi he
  rw [endCycle_of_halted (setStatus_status s _)] at hstep
  exact ⟨_, hstep, rfl, kept_setStatus_endSlot s _⟩

/-- Settles O10: CALL at full depth and RET when empty each raise their stack fault, and the word recorded is the one fetched. -/
theorem stackFaultsHalt : Obligations.StackFaultsHalt := by
  intro s w hf
  constructor
  · rintro ⟨nnn, hd⟩ hs
    have he := exec_call_full nnn s.advance hs
    rw [encodeWord_of_decodeWord hd] at he
    exact step_of_stackFault ⟨w, hf, hd⟩ (by simp) he
  · intro hd hs
    exact step_of_stackFault ⟨w, hf, hd⟩ (by simp) (exec_ret_empty s.advance hs)

end Sys2Proof.Machine
end

section
/-!
PROOFS. The outside of the block (60_exceptions.md R221 to R227): the display snapshot, the loader and its refusal.
-/
namespace Sys2Proof.Machine

/-! ## The snapshot -/

/-- The snapshot is the display's rows joined to one vector. -/
theorem snapshot_eq_flatten (s : State) : s.snapshot = s.display.flatten.toList := by
  have rows : s.snapshot = (((s.display.toArray.map Vector.toArray).toList).map Array.toList).flatten := by
    rw [Array.toList_map, List.map_map]
    rfl
  exact rows.trans Array.toList_flatten.symm

/-- Settles O47: the joined rows have 32 times 64 pixels, and element y * 64 + x is in row y at column x. -/
theorem snapshotIsRowMajor : Obligations.SnapshotIsRowMajor := by
  intro s
  rw [snapshot_eq_flatten]
  refine ⟨Vector.length_toList, fun y x => ?_⟩
  have hi : y.val * 64 + x.val < 32 * 64 := by omega
  have row : (y.val * 64 + x.val) / 64 = y.val := by omega
  have column : (y.val * 64 + x.val) % 64 = x.val := by omega
  rw [Vector.getElem?_toList, Vector.getElem?_flatten, dif_pos hi]
  simp only [row, column]
  rfl

/-! ## The load -/

/-- The bytes outside the image are as they were. -/
theorem byteAt_writeImage_outside {bytes : List Byte} {s : State} {a c : Nat} (hfit : a + bytes.length ≤ 4096)
    (hc : ¬(a ≤ c ∧ c < a + bytes.length)) : (s.writeImage a bytes).byteAt c = s.byteAt c := by
  induction bytes generalizing s a with
  | nil => rfl
  | cons b bs ih =>
    rw [List.length_cons] at hfit hc
    have ha : (BitVec.ofNat 12 a).toNat = a := Nat.mod_eq_of_lt (by omega)
    rw [State.writeImage, ih (by omega) (by omega), byteAt_writeByte, ha, if_neg (by omega)]

/-- The image's bytes stand from its address on, in order. -/
theorem byteAt_writeImage {bytes : List Byte} {s : State} {a k : Nat} (hfit : a + bytes.length ≤ 4096)
    (hk : k < bytes.length) : (s.writeImage a bytes).byteAt (a + k) = bytes[k] := by
  induction bytes generalizing s a k with
  | nil => cases hk
  | cons b bs ih =>
    rw [List.length_cons] at hfit
    have ha : (BitVec.ofNat 12 a).toNat = a := Nat.mod_eq_of_lt (by omega)
    rw [State.writeImage]
    cases k with
    | zero =>
      rw [byteAt_writeImage_outside (by omega) (by omega), byteAt_writeByte, ha]
      exact if_pos rfl
    | succ k =>
      rw [show a + (k + 1) = a + 1 + k by omega]
      exact ih (by omega) (Nat.lt_of_succ_lt_succ hk)

/-- Writing an image is the state with other memory, canonical if it was. -/
theorem writeImage_mem (bytes : List Byte) (s : State) (a : Nat) :
    ∃ m, s.writeImage a bytes = { s with mem := m } ∧ (Memory.wf s.fb s.mem → Memory.wf s.fb m) := by
  induction bytes generalizing s a with
  | nil => exact ⟨s.mem, rfl, id⟩
  | cons b bs ih =>
    obtain ⟨m, h, hw⟩ := ih (s.writeByte (BitVec.ofNat 12 a) b) (a + 1)
    exact ⟨m, h, fun h0 => hw (writeByte_wf s _ b h0)⟩

@[simp] theorem loadReset_reg (s : State) (x : Reg) : s.loadReset.reg x = 0 := Vector.getElem_replicate x.isLt

/-- After the load reset only memory is left to meet the invariant. -/
theorem inv_loadReset {s : State} (h : Memory.wf s.fb s.mem) : s.loadReset.Inv where
  i_le := Nat.zero_le _
  pc_le := by simp
  entry_le := fun j hj => absurd hj (Nat.not_lt_zero _)
  phase_le := Nat.zero_le _
  mem_wf := h
  halt_true := haltRecordTrue_of_running rfl

/-- Settles O59: the image changes memory alone, byte by byte, and the reset keeps memory, display and configuration. -/
theorem loadPlacesImageAndResets : Obligations.LoadPlacesImageAndResets := by
  intro s bytes hlen
  have hfit : 0x200 + bytes.length ≤ 4096 := by omega
  have hload : s.loadProgram bytes = .next (s.writeImage progOrigin bytes).loadReset := if_neg hlen.not_gt
  have inside : ∀ (k : Nat) (h : k < bytes.length), (s.writeImage progOrigin bytes).byteAt (0x200 + k) = bytes[k] :=
    fun k h => byteAt_writeImage hfit h
  have outside : ∀ a, ¬(0x200 ≤ a ∧ a < 0x200 + bytes.length) →
      (s.writeImage progOrigin bytes).byteAt a = s.byteAt a := fun a ha => byteAt_writeImage_outside hfit ha
  obtain ⟨m, hm, hwf⟩ := writeImage_mem bytes s progOrigin
  rw [hm] at hload inside outside
  exact ⟨_, hload, inside, outside, loadReset_reg _, rfl, rfl, rfl, rfl, rfl, rfl, rfl, rfl, rfl, rfl, rfl,
    fun h => inv_loadReset (hwf h.mem_wf)⟩

/-! ## The refused load -/

theorem loadProgram_eq_fault_iff (s : State) (bytes : List Byte) :
    s.loadProgram bytes = .fault .programTooLarge ↔ bytes.length > 3584 := by
  unfold State.loadProgram
  split
  case isTrue h => exact iff_of_true rfl h
  case isFalse h => exact iff_of_false (by simp) h

/-- No instruction comes to record ProgramTooLarge: what it records is one of the three faults that handlers raise. -/
theorem exec_not_programTooLarge {i : Instr} {s t : State} (h : exec i s = .next t)
    (hs : ∀ a w, s.status ≠ .halted .programTooLarge a w) (a : Word) (w : Option Word) :
    t.status ≠ .halted .programTooLarge a w := by
  rcases exec_status h with e | ⟨f, rfl, hcause⟩
  · rw [e]; exact hs a w
  · rintro ⟨⟩
    simp at hcause

/-- No step comes to record ProgramTooLarge: it has no cause in a running engine, and a stopped one keeps its status. -/
theorem step_not_programTooLarge {s t : State} (h : step s = .next t)
    (hs : ∀ a w, s.status ≠ .halted .programTooLarge a w) (a : Word) (w : Option Word) :
    t.status ≠ .halted .programTooLarge a w := by
  intro ht
  by_cases hr : s.status = .running
  · obtain ⟨_, _, cause⟩ := step_halts hr h ht
    cases cause
  · exact hs a w (step_of_not_running h hr ▸ ht)

/-- Settles O60: the loader answers the fault by the length alone; instructions and steps always answer a next state, and none of those
comes to record it. -/
theorem oversizedLoadIsRefused : Obligations.OversizedLoadIsRefused := by
  refine ⟨loadProgram_eq_fault_iff, fun s => ⟨fun i he => ?_, fun h => ?_⟩, fun s t hs h => ?_⟩
  · obtain ⟨t, ht, _⟩ := exec_next i s
    cases ht.symm.trans he
  · obtain ⟨t, ht⟩ := everyStepAnswersNext s
    cases ht.symm.trans h
  · rcases h with ⟨i, he⟩ | h
    · exact exec_not_programTooLarge he hs
    · exact step_not_programTooLarge h hs

end Sys2Proof.Machine
end

section
/-!
PROOFS. The jump to its own address (60_exceptions.md R232): a cycle that changes nothing.
-/
namespace Sys2Proof.Machine

/-- Settles O31: the jump sets pc to its own address, which takes the fetch advance back, so that the end of the cycle is all that is left
of the step. -/
theorem selfJumpRepeats : Obligations.SelfJumpRepeats := by
  intro s nnn hi hpc
  have target : zext16 nnn = s.pc := BitVec.eq_of_toNat_eq (by rw [zext16_toNat, hpc])
  have back : exec (.jp nnn) s.advance = .next s := by
    show Host.Outcome.next (s.advance.setPc (zext16 nnn)) = .next s
    rw [target]
    rfl
  exact ⟨_, step_of_runs hi back, kept_endCycle_endSlot s⟩

end Sys2Proof.Machine
end

section
/-!
PROOFS. The words that the decoder rejects (30_encoding.md R76) and SYS; the word that a fetch reads (20_memory.md R53).
-/
namespace Sys2Proof

theorem decodeWord_of_op_zero {w : Word} (ho : opField w = 0x0#4) :
    decodeWord w = if w = 0x00E0#16 then .ok .cls else if w = 0x00EE#16 then .ok .ret else .ok (.sys (nnnField w)) := by
  simp only [decodeWord, ho]

/-- A word decodes to SYS exactly in the class of operation field 0, where CLS and RET do not match (R75). -/
theorem decodeWord_sys_iff (w : Word) :
    (∃ nnn, decodeWord w = .ok (.sys nnn)) ↔ opField w = 0x0#4 ∧ w ≠ 0x00E0#16 ∧ w ≠ 0x00EE#16 := by
  constructor
  · rintro ⟨nnn, h⟩
    have ho : opField w = 0x0#4 := encodeWord_of_decodeWord h ▸ opField_wordA 0x0#4 nnn
    rw [decodeWord_of_op_zero ho] at h
    exact ⟨ho, fun e => by simp [e] at h, fun e => by simp [e] at h⟩
  · rintro ⟨ho, hcls, hret⟩
    exact ⟨nnnField w, by rw [decodeWord_of_op_zero ho, if_neg hcls, if_neg hret]⟩

/-- Settles O4: class by class of the decoder, the words left over by the rows of the class are the class's space. -/
theorem unknownWordsAreTheFiveSpaces : Obligations.UnknownWordsAreTheFiveSpaces := by
  refine fun w => ⟨?_, decodeWord_sys_iff w⟩
  unfold decodeWord
  split
  case h_1 ho =>
    rw [ho]
    split
    · simp
    · split <;> simp
  case h_2 ho | h_3 ho | h_4 ho | h_5 ho | h_7 ho | h_8 ho | h_11 ho | h_12 ho | h_13 ho | h_14 ho => simp [ho]
  case h_6 ho | h_10 ho => split <;> simp [*]
  case h_9 ho =>
    rw [ho]
    generalize nField w = n
    split
    case h_10 => exact iff_of_true rfl (.inr (.inl ⟨rfl, by decide +revert⟩))
    all_goals simp [*]
  case h_15 ho =>
    rw [ho]
    split
    case h_3 =>
      refine iff_of_true rfl (.inr (.inr (.inr (.inl ⟨rfl, ?_⟩))))
      simp only [List.mem_cons, List.not_mem_nil, or_false, not_or]
      and_intros <;> assumption
    all_goals simp [*]
  case h_16 =>
    have ho : opField w = 0xF#4 := by generalize opField w = op at *; decide +revert
    rw [ho]
    split
    case h_10 =>
      refine iff_of_true rfl (.inr (.inr (.inr (.inr ⟨rfl, ?_⟩))))
      simp only [List.mem_cons, List.not_mem_nil, or_false, not_or]
      and_intros <;> assumption
    all_goals simp [*]

/-- Settles O5: each of the nine words is decoded. -/
theorem sampleWordsDecode : Obligations.SampleWordsDecode := by
  refine ⟨?_, ?_, ?_, ?_, ?_, ?_, ?_, ?_, ?_⟩ <;> decide

/-! ## The fetch -/

theorem hiByte_append (a b : Byte) : hiByte (a ++ b) = a := by
  apply BitVec.eq_of_toNat_eq; rw [hiByte_toNat, append_toNat]; omega

theorem loByte_append (a b : Byte) : loByte (a ++ b) = b := by
  apply BitVec.eq_of_toNat_eq; rw [loByte_toNat, append_toNat]; omega

/-- Settles O7: the fetch fails exactly above 0xFFE, and otherwise joins the two bytes, high byte first. -/
theorem fetchReadsBigEndianWord : Obligations.FetchReadsBigEndianWord := fun s =>
  ⟨(Machine.fetch_eq_none s).2, fun hpc =>
    ⟨_, (Machine.fetch_eq_some s _).2 ⟨hpc, rfl⟩, hiByte_append _ _, loByte_append _ _⟩⟩

end Sys2Proof
end

section
/-!
PROOFS. Unknown words and SYS (60_exceptions.md R204): both raise UnknownInstruction, which the policy turns into a halt or a skip.
-/
namespace Sys2Proof.Machine

theorem raiseUnknown_of_fatal {s : State} (a : Word) (w : Option Word) (h : s.cfg.unknownPolicy = .fatal) :
    s.raise .unknownInstruction a w = (s.setPc a).setStatus (.halted .unknownInstruction a w) :=
  if_neg (by simp [h])

theorem raiseUnknown_of_skip {s : State} (a : Word) (w : Option Word) (h : s.cfg.unknownPolicy = .skip) :
    s.raise .unknownInstruction a w = s.setPc (a + 2) :=
  if_pos ⟨rfl, h⟩

/-- Settles O36: SYS is the raise and nothing else; under Skip it puts pc where it already is. -/
theorem sysRaisesUnknownInstruction : Obligations.SysRaisesUnknownInstruction := by
  refine ⟨by decide, fun nnn s => ?_⟩
  have sys : exec (.sys nnn) s = .next (s.raise .unknownInstruction (s.pc - 2) (some (encodeWord (.sys nnn)))) := rfl
  refine ⟨_, sys, fun hp => ?_, fun hp => ?_⟩
  · have kept := kept_raise s .unknownInstruction (s.pc - 2) (some (encodeWord (.sys nnn)))
    rw [raiseUnknown_of_fatal _ _ hp] at kept ⊢
    exact ⟨rfl, ⟨_, rfl, by rw [encodeWord, wordA_toNat]; simp⟩, kept⟩
  · rw [raiseUnknown_of_skip _ _ hp, show s.pc - 2 + 2 = s.pc by simp]
    exact .refl _ s

/-- A raise in the handler of the instruction fetched at pc is the raise before the fetch advance (R93). -/
theorem raiseInHandler_advance (s : State) (f : Fault) (w : Word) :
    s.advance.raiseInHandler f w = s.raise f s.pc (some w) := by
  have back : s.advance.pc - 2 = s.pc := by simp
  rw [State.raiseInHandler, back]
  rfl

/-- A cycle that fetches an unknown word or SYS raises UnknownInstruction, and nothing else. -/
theorem step_raisesUnknown {s : State} {w : Word} (hf : s.Fetches w)
    (hd : (∃ e, decodeWord w = .error e) ∨ ∃ nnn, decodeWord w = .ok (.sys nnn)) :
    step s = .next (s.raise .unknownInstruction s.pc (some w)).endCycle.endSlot := by
  rcases hd with ⟨e, hd⟩ | ⟨nnn, hd⟩
  · exact step_of_case (.unknown w hf e hd)
  · rw [← raiseInHandler_advance, ← encodeWord_of_decodeWord hd]
    exact step_of_runs ⟨w, hf, hd⟩ rfl

theorem endCycle_of_running {s : State} (h : s.status = .running) : s.endCycle = s.latch := if_pos h

/-- Settles O9: the raise halts under Fatal, before the latch, and moves pc alone under Skip. -/
theorem unknownWordFollowsPolicy : Obligations.UnknownWordFollowsPolicy := by
  intro s w hf hd
  refine ⟨_, step_raisesUnknown hf hd, fun hp => ?_, fun hp => ?_⟩
  · rw [raiseUnknown_of_fatal _ _ hp, endCycle_of_halted (setStatus_status _ _)]
    exact ⟨rfl, kept_setStatus_endSlot s _⟩
  · rw [raiseUnknown_of_skip _ _ hp]
    refine ⟨kept_endCycle_endSlot _ .pc (by simp), ?_, ?_⟩
    · rw [endCycle_of_running (s := s.setPc (s.pc + 2)) hf.ready.running]; rfl
    · exact ((kept_setPc s _).mono (by simp)).trans ((kept_endCycle_endSlot _).mono (by simp))

/-- Settles O13: a stopped engine is the idle case of a step. -/
theorem stoppedDriverDoesNothing : Obligations.StoppedDriverDoesNothing := fun _ h => step_of_case (.idle h)

end Sys2Proof.Machine
end

section
/-!
PROOFS. The key wait (40_cycle.md R95, 60_exceptions.md R219): what a waiting cycle delivers, and a frame spent waiting.
-/
namespace Sys2Proof.Machine

/-! ## The waiting cycle -/

theorem pressed_iff (s : State) (k : Key) :
    s.pressed k = true ↔ s.kprev.getLsbD k.val = false ∧ s.keys.getLsbD k.val = true := by
  rw [State.pressed, Bool.and_eq_true, Bool.not_eq_true']
  rfl

theorem pressed_eq_false_iff (s : State) (k : Key) :
    s.pressed k = false ↔ ¬(s.kprev.getLsbD k.val = false ∧ s.keys.getLsbD k.val = true) := by
  rw [← pressed_iff, Bool.not_eq_true]

theorem waitingCycle_of_press {s : State} (r : Reg) {k : Key} (h : s.firstPress = some k) :
    s.waitingCycle r = ((s.setReg r (BitVec.ofNat 8 k.val)).setWait none).latch := by
  rw [State.waitingCycle, h]

theorem waitingCycle_of_no_press {s : State} (r : Reg) (h : s.firstPress = none) : s.waitingCycle r = s.latch := by
  rw [State.waitingCycle, h]

theorem waitingCycle_kprev (s : State) (r : Reg) : (s.waitingCycle r).kprev = s.keys := by
  rcases waitingCycle_cases s r with ⟨k, _, e⟩ | ⟨_, e⟩ <;> rw [e] <;> rfl

theorem kept_latch_endSlot (s : State) : KeptExcept [.kprev, .phase, .inputs] s s.latch.endSlot :=
  ((kept_latch s).mono (by simp)).trans ((kept_endSlot _).mono (by simp))

/-- Settles O18: the first press is the key of the statement, and no press leaves the latch. -/
theorem waitingCycleDeliversLowestPress : Obligations.WaitingCycleDeliversLowestPress := by
  intro s r ready hw
  refine ⟨_, step_of_case (.waiting ready r hw), waitingCycle_kprev s r, fun k hk hlow => ?_, fun hno => ?_⟩
  · have press : s.firstPress = some k :=
      (firstPress_eq_some s k).2 ⟨(pressed_iff s k).2 hk, fun j hj => (pressed_eq_false_iff s j).2 (hlow j hj)⟩
    have delivered : ((s.waitingCycle r).endSlot.reg r).toNat = k.val := by
      rw [waitingCycle_of_press r press]
      show ((s.setReg r (BitVec.ofNat 8 k.val)).reg r).toNat = k.val
      rw [reg_setReg_same, BitVec.toNat_ofNat]
      omega
    refine ⟨delivered, by rw [waitingCycle_of_press r press]; rfl, ?_⟩
    exact ((kept_waitingCycle s r).mono (by simp)).trans ((kept_endSlot _).mono (by simp))
  · have noPress : s.firstPress = none := (firstPress_eq_none s).2 fun k => (pressed_eq_false_iff s k).2 (hno k)
    rw [waitingCycle_of_no_press r noPress]
    exact kept_latch_endSlot s

/-- With the sample that the latch holds, no key goes down. -/
theorem no_press_of_keys_eq {s : State} (h : s.keys = s.kprev) (k : Key) :
    ¬(s.kprev.getLsbD k.val = false ∧ s.keys.getLsbD k.val = true) := by
  rw [h]
  rintro ⟨up, down⟩
  exact absurd (up.symm.trans down) (by simp)

/-- Settles O20: the cycle of FX0A latched the sample, so the same sample brings no press. -/
theorem heldKeyDoesNotEndWait : Obligations.HeldKeyDoesNotEndWait := by
  intro s t x hi hstep ready hkeys
  have running : s.status = .running := by
    obtain ⟨_, hf, _⟩ := hi
    exact hf.ready.running
  have ran : step s = .next (s.advance.setWait (some x)).latch.endSlot := by
    rw [← endCycle_of_running (s := s.advance.setWait (some x)) running]
    exact step_of_runs hi rfl
  cases ran.symm.trans hstep
  obtain ⟨u, hu, _, _, quiet⟩ := waitingCycleDeliversLowestPress _ x ready rfl
  have kept := quiet (no_press_of_keys_eq hkeys)
  exact ⟨u, hu, kept .wait (by simp), kept⟩

/-! ## A frame of waiting cycles -/

/-- A part that turns out to be the same may be left out of the list of a frame. -/
theorem KeptExcept.drop {p : Part} {ps : List Part} {s t : State} (h : KeptExcept (p :: ps) s t) (hp : p.same s t) :
    KeptExcept ps s t := by
  intro q hq
  by_cases e : q = p
  · exact e ▸ hp
  · exact h q (by simp [e, hq])

/-- A waiting cycle without a change of the keys uses its slot and its input and changes nothing else. -/
theorem step_waiting_unchanged {s : State} {r : Reg} (ready : s.Ready) (hw : s.wait = some r) (hk : s.keys = s.kprev) :
    step s = .next s.endSlot := by
  have noPress : s.firstPress = none :=
    (firstPress_eq_none s).2 fun k => (pressed_eq_false_iff s k).2 (no_press_of_keys_eq hk k)
  have latched : s.latch = s := by rw [State.latch, hk]
  have waited := step_of_case (.waiting ready r hw)
  rwa [waitingCycle_of_no_press r noPress, latched] at waited

theorem input_mem_inputs {s : State} (h : 0 < s.inputs.length) : s.input ∈ s.inputs := by
  unfold State.input
  cases hi : s.inputs with
  | nil => simp [hi] at h
  | cons x xs => exact List.mem_cons_self

/-- Waiting cycles without a change of the keys, one after another, use their slots and inputs. -/
theorem runSteps_waiting {k : Nat} {s : State} {r : Reg} (hr : s.status = .running) (hw : s.wait = some r)
    (hk : s.phase + k ≤ s.cfg.cyclesPerFrame) (hl : k ≤ s.inputs.length)
    (hx : ∀ x ∈ s.inputs, x.shutdown = false ∧ x.keys = s.kprev) : runSteps k s = .next (State.endSlot^[k] s) := by
  induction k generalizing s with
  | zero => rfl
  | succ k ih =>
    obtain ⟨noShutdown, hkeys⟩ := hx _ (input_mem_inputs (by omega))
    have hstep : step s = .next s.endSlot := step_waiting_unchanged ⟨hr, by omega, noShutdown⟩ hw hkeys
    have slot : s.endSlot.phase + k ≤ s.endSlot.cfg.cyclesPerFrame := by
      show s.phase + 1 + k ≤ s.cfg.cyclesPerFrame
      omega
    have rest : k ≤ s.endSlot.inputs.length := by
      show k ≤ s.inputs.tail.length
      rw [List.length_tail]
      omega
    rw [runSteps_succ k hstep]
    exact ih hr hw slot rest fun x hm => hx x (List.mem_of_mem_tail hm)

theorem endSlot_iterate_phase (k : Nat) (s : State) : (State.endSlot^[k] s).phase = s.phase + k := by
  induction k generalizing s with
  | zero => rfl
  | succ k ih =>
    rw [Function.iterate_succ_apply, ih]
    show s.phase + 1 + k = _
    omega

theorem kept_endSlot_iterate (k : Nat) (s : State) : KeptExcept [.phase, .inputs] s (State.endSlot^[k] s) := by
  induction k generalizing s with
  | zero => exact .refl _ s
  | succ k ih => exact (kept_endSlot s).trans (ih s.endSlot)

/-- The last of several steps. -/
theorem runSteps_succ_last {k : Nat} {s t : State} (h : runSteps k s = .next t) : runSteps (k + 1) s = step t := by
  induction k generalizing s with
  | zero =>
    cases h
    obtain ⟨u, hu⟩ := everyStepAnswersNext t
    rw [runSteps_succ 0 hu, hu]
    rfl
  | succ k ih =>
    obtain ⟨u, hu, hrest⟩ := runSteps_succ_next h
    rw [runSteps_succ (k + 1) hu, ih hrest]

/-- Settles O21: the waiting cycles use the frame's slots and inputs, and the tick sets the phase back to the 0 of the start. -/
theorem waitingFrameTicksOnce : Obligations.WaitingFrameTicksOnce := by
  intro s r hr hw h0 hs hl hx
  obtain ⟨t, ht⟩ : ∃ t, State.endSlot^[s.cfg.cyclesPerFrame] s = t := ⟨_, rfl⟩
  have waited : runSteps s.cfg.cyclesPerFrame s = .next t := ht ▸ runSteps_waiting hr hw (by omega) hl hx
  have hphase : t.phase = s.phase + s.cfg.cyclesPerFrame := ht ▸ endSlot_iterate_phase _ s
  have kept : KeptExcept [.phase, .inputs] s t := ht ▸ kept_endSlot_iterate _ s
  have hcfg : t.cfg = s.cfg := kept .cfg (by simp)
  have hdt : t.dt = s.dt := kept .dt (by simp)
  have hst : t.st = s.st := kept .st (by simp)
  have running : t.status = .running := (kept .status (by simp)).trans hr
  have noShutdown : t.cfg.cyclesPerFrame = 0 → t.input.shutdown = false := by
    intro hc
    rw [hcfg] at hc
    rw [← ht, hc]
    exact hs hc
  obtain ⟨u, hu, dt, st, phase, keptTick, _⟩ := tickCountsDown t running (by rw [hcfg]; omega) noShutdown
  have whole : KeptExcept [.phase, .dt, .st, .inputs] s u := (kept.mono (by simp)).trans (keptTick.mono (by simp))
  exact ⟨u, (runSteps_succ_last waited).trans hu, hdt ▸ dt, hst ▸ st, whole.drop (phase.trans h0.symm)⟩

end Sys2Proof.Machine
end

section
/-!
PROOFS. Arithmetic and logic (41_arith_logic.md): the instructions that write V[X] alone, and those that write a flag to VF after it.
-/
namespace Sys2Proof.Machine

/-! ## One write of V[X] -/

/-- Settles O23: each of the four instructions is one write of V[X], with the sum or the bitwise result. -/
theorem addImmediateAndLogicKeepVF : Obligations.AddImmediateAndLogicKeepVF := by
  intro x y nn s
  have addImm : exec (.addImm x nn) s = .next (s.setReg x (s.reg x + nn)) := rfl
  have orReg : exec (.orReg x y) s = .next (s.setReg x (s.reg x ||| s.reg y)) := rfl
  have andReg : exec (.andReg x y) s = .next (s.setReg x (s.reg x &&& s.reg y)) := rfl
  have xorReg : exec (.xorReg x y) s = .next (s.setReg x (s.reg x ^^^ s.reg y)) := rfl
  refine ⟨⟨_, addImm, ?_, kept_setReg s x _⟩, ⟨_, orReg, fun k _ => ?_, kept_setReg s x _⟩,
    ⟨_, andReg, fun k _ => ?_, kept_setReg s x _⟩, ⟨_, xorReg, fun k _ => ?_, kept_setReg s x _⟩⟩ <;> rw [reg_setReg_same]
  · exact BitVec.toNat_add _ _
  · exact BitVec.getLsbD_or
  · exact BitVec.getLsbD_and
  · exact BitVec.getLsbD_xor

/-- Settles O27: CXNN is one write of V[X], with the byte drawn anded with NN. -/
theorem randomByteIsMasked : Obligations.RandomByteIsMasked := by
  intro x nn s
  have draw : exec (.rnd x nn) s = .next (s.setReg x (s.input.rnd &&& nn)) := rfl
  refine ⟨_, draw, reg_setReg_same s x _, ?_, kept_setReg s x _⟩
  rw [reg_setReg_same, BitVec.and_assoc, BitVec.and_not_self]; exact BitVec.and_zero

/-! ## The result, then the flag -/

/-- A flag is written as the number 1 exactly where the condition that it records holds (10_state.md R21). -/
theorem flagByte_toNat {c : Bool} {P : Prop} [Decidable P] (h : c = true ↔ P) :
    (flagByte c).toNat = if P then 1 else 0 := by
  cases c with
  | true => rw [if_pos (h.1 rfl)]; rfl
  | false => rw [if_neg fun hp => by cases h.2 hp]; rfl

theorem carryOf_iff (a b : Byte) : carryOf a b = true ↔ a.toNat + b.toNat > 255 := decide_eq_true_iff

theorem borrowOf_iff (a b : Byte) : borrowOf a b = true ↔ a.toNat < b.toNat := by
  rw [borrowOf, decide_eq_true_iff]; omega

/-- The whole effect of an instruction that writes a result and then a flag: with X = 15 the flag wins (R100). -/
theorem exec_setRegFlag_effect {i : Instr} {s : State} {x : Reg} {r : Byte} {c : Bool}
    (h : exec i s = .next (s.setRegFlag x r c)) :
    ∃ t, exec i s = .next t ∧ (x ≠ 15 → t.reg x = r) ∧ t.reg 15 = flagByte c ∧ KeptExcept [.reg x, .reg 15] s t := by
  refine ⟨_, h, fun hx => ?_, ?_, kept_setRegFlag s x r c⟩
  · rw [reg_setRegFlag, if_neg hx, if_pos rfl]
  · rw [reg_setRegFlag, if_pos rfl]

/-- Settles O24: 8XY4 writes the sum and then the carry. -/
theorem addSetsCarry : Obligations.AddSetsCarry := by
  intro x y s
  have add : exec (.addReg x y) s = .next (s.setRegFlag x (s.reg x + s.reg y) (carryOf (s.reg x) (s.reg y))) := rfl
  obtain ⟨t, ht, sum, flag, kept⟩ := exec_setRegFlag_effect add
  exact ⟨t, ht, fun hx => by rw [sum hx, BitVec.toNat_add], by rw [flag, flagByte_toNat (carryOf_iff _ _)], kept⟩

theorem sub_toNat_eq_emod (a b : Byte) : ((a - b).toNat : Int) = (a.toNat - b.toNat : Int) % 256 := by
  rw [BitVec.toNat_sub]; omega

/-- An instruction that writes the difference of two bytes and then the borrow. -/
theorem exec_borrow_effect {i : Instr} {s : State} {x : Reg} {a b : Byte}
    (h : exec i s = .next (s.setRegFlag x (a - b) (borrowOf a b))) :
    ∃ t, exec i s = .next t ∧ (x ≠ 15 → ((t.reg x).toNat : Int) = (a.toNat - b.toNat : Int) % 256) ∧
      (t.reg 15).toNat = (if a.toNat < b.toNat then 1 else 0) ∧ KeptExcept [.reg x, .reg 15] s t := by
  obtain ⟨t, ht, difference, flag, kept⟩ := exec_setRegFlag_effect h
  exact ⟨t, ht, fun hx => by rw [difference hx, sub_toNat_eq_emod], by rw [flag, flagByte_toNat (borrowOf_iff _ _)], kept⟩

/-- Settles O25: 8XY5 writes V[X] - V[Y], 8XY7 V[Y] - V[X], each with its borrow. -/
theorem subtractSetsBorrow : Obligations.SubtractSetsBorrow := by
  intro x y s
  have sub : exec (.sub x y) s = .next (s.setRegFlag x (s.reg x - s.reg y) (borrowOf (s.reg x) (s.reg y))) := rfl
  have subn : exec (.subn x y) s = .next (s.setRegFlag x (s.reg y - s.reg x) (borrowOf (s.reg y) (s.reg x))) := rfl
  exact ⟨exec_borrow_effect sub, exec_borrow_effect subn⟩

theorem shiftedOutRight_toNat (b : Byte) : (flagByte (shiftedOutRight b)).toNat = b.toNat % 2 := by
  have bit : shiftedOutRight b = true ↔ b.toNat % 2 = 1 := by
    rw [shiftedOutRight, BitVec.getLsbD, Nat.testBit_eq_decide_div_mod_eq, decide_eq_true_iff]; omega
  rw [flagByte_toNat bit]; split <;> omega

theorem shiftedOutLeft_toNat (b : Byte) : (flagByte (shiftedOutLeft b)).toNat = b.toNat / 128 := by
  have bit : shiftedOutLeft b = true ↔ b.toNat / 128 = 1 := by
    rw [shiftedOutLeft, BitVec.getLsbD, Nat.testBit_eq_decide_div_mod_eq, decide_eq_true_iff]; omega
  rw [flagByte_toNat bit]; split <;> omega

/-- Settles O26: each shift writes its operand moved by one bit and then the bit shifted out. -/
theorem shiftsMoveOneBitToVF : Obligations.ShiftsMoveOneBitToVF := by
  rintro x y s v hv
  have operand : s.shiftOperand x y = v := hv.symm
  have shr : exec (.shr x y) s = .next (s.setRegFlag x (v >>> 1) (shiftedOutRight v)) := by rw [← operand]; rfl
  have shl : exec (.shl x y) s = .next (s.setRegFlag x (v <<< 1) (shiftedOutLeft v)) := by rw [← operand]; rfl
  obtain ⟨t, ht, half, low, keptr⟩ := exec_setRegFlag_effect shr
  obtain ⟨u, hu, double, high, keptl⟩ := exec_setRegFlag_effect shl
  refine ⟨⟨t, ht, fun hx => ?_, by rw [low, shiftedOutRight_toNat], keptr⟩,
    ⟨u, hu, fun hx => ?_, by rw [high, shiftedOutLeft_toNat], keptl⟩⟩
  · rw [half hx, BitVec.toNat_ushiftRight, Nat.shiftRight_eq_div_pow, Nat.pow_one]
  · rw [double hx, BitVec.toNat_shiftLeft, Nat.shiftLeft_eq, Nat.pow_one]

end Sys2Proof.Machine
end

section
/-!
PROOFS. The keypad instructions (47_keypad.md R171 to R173): the skips on the level of a key, and the start of the key wait.
-/
namespace Sys2Proof.Machine

theorem lowNibble_val (b : Byte) : (lowNibble b).val = b.toNat % 16 := by
  simp [lowNibble]

/-- Settles O29: each of the two instructions is one conditional skip, on the key that the low nibble selects. -/
theorem keySkips : Obligations.KeySkips := by
  rintro x s _ rfl
  rw [← lowNibble_val]
  have skp : exec (.skp x) s = .next (s.skipIf (s.keyDown (lowNibble (s.reg x)))) := rfl
  have sknp : exec (.sknp x) s = .next (s.skipIf (!s.keyDown (lowNibble (s.reg x)))) := rfl
  exact ⟨exec_skipIf_effect skp Iff.rfl, exec_skipIf_effect sknp (Bool.not_eq_true' _).to_iff⟩

/-- Settles O19: FX0A is one write of the awaiting-key flag. -/
theorem keyWaitStarts : Obligations.KeyWaitStarts := by
  intro x s
  have wait : exec (.ldKey x) s = .next (s.setWait (some x)) := rfl
  exact ⟨_, wait, setWait_wait s _, kept_setWait s _⟩

end Sys2Proof.Machine
end

section
/-!
PROOFS. The offset jump (43_subroutines_jumps.md R134): the register that BNNN adds, and the sum that is not masked.
-/
namespace Sys2Proof.Machine

theorem topNibble_val (nnn : Addr) : (topNibble nnn).val = nnn.toNat / 256 := by
  show (nnn.extractLsb' 8 4).toNat = _
  rw [BitVec.extractLsb'_toNat, Nat.shiftRight_eq_div_pow]
  omega

theorem jumpReg_val (s : State) (nnn : Addr) :
    (s.jumpReg nnn).val = if s.cfg.jumpUsesVx then nnn.toNat / 256 else 0 := by
  unfold State.jumpReg
  split
  · exact topNibble_val nnn
  · rfl

theorem offsetTarget_toNat (nnn : Addr) (b : Byte) : (zext16 nnn + b.setWidth 16).toNat = nnn.toNat + b.toNat := by
  rw [BitVec.toNat_add, zext16_toNat, BitVec.toNat_setWidth]
  omega

/-- Settles O32: BNNN is one write of pc, and the sum fits in 16 bits. -/
theorem offsetJumpIsNotMasked : Obligations.OffsetJumpIsNotMasked := by
  intro nnn s
  have jump : exec (.jpOff nnn) s = .next (s.setPc (zext16 nnn + (s.reg (s.jumpReg nnn)).setWidth 16)) := rfl
  exact ⟨_, jumpReg_val s nnn, _, jump, offsetTarget_toNat nnn _, kept_setPc s _⟩

end Sys2Proof.Machine
end

section
/-!
PROOFS. FX29 and FX1E (45_address_register.md R151, R152): the address of a glyph, and the masked sum with its overflow.
-/
namespace Sys2Proof.Machine

theorem glyphAddr_toNat (s : State) (d : Fin 16) : (s.glyphAddr d).toNat = s.cfg.fontBase.val + 5 * d.val := by
  have hb := s.cfg.fontBase.isLt
  rw [State.glyphAddr, State.fb, BitVec.toNat_ofNat]
  exact Nat.mod_eq_of_lt (by omega)

/-- Settles O42: FX29 is one write of I; the font ends at 0x200, so every glyph begins below it. -/
theorem fontAddressOfLowNibble : Obligations.FontAddressOfLowNibble := by
  intro x s
  have font : exec (.ldFont x) s = .next (s.setI (s.glyphAddr (lowNibble (s.reg x)))) := rfl
  have value : (s.glyphAddr (lowNibble (s.reg x))).toNat = s.cfg.fontBase.val + 5 * ((s.reg x).toNat % 16) := by
    rw [glyphAddr_toNat, lowNibble_val]
  refine ⟨_, font, value, ?_, kept_setI s _⟩
  rw [setI_i, value]
  omega

theorem addIOverflowOf_iff (i : Word) (a : Byte) : addIOverflowOf i a = true ↔ i.toNat + a.toNat > 0xFFF :=
  decide_eq_true_iff

theorem maskedSum_toNat (i : Word) (a : Byte) :
    (zext16 (m12 (i + a.setWidth 16))).toNat = (i.toNat + a.toNat) % 4096 := by
  rw [zext16_toNat, m12, BitVec.toNat_setWidth, BitVec.toNat_add, BitVec.toNat_setWidth]
  omega

/-- Settles O43: FX1E writes I with the masked sum, and then, under the switch, VF with the overflow of the unmasked one. -/
theorem addToAddressRegister : Obligations.AddToAddressRegister := by
  intro x s
  let t := s.setI (zext16 (m12 (s.i + (s.reg x).setWidth 16)))
  have keptI : KeptExcept [.i] s t := kept_setI s _
  have sum : t.i.toNat = (s.i.toNat + (s.reg x).toNat) % 4096 := maskedSum_toNat s.i (s.reg x)
  have add : exec (.addI x) s =
      .next (if s.cfg.addiOverflow then t.setReg regF (flagByte (addIOverflowOf s.i (s.reg x))) else t) := rfl
  cases hc : s.cfg.addiOverflow with
  | true =>
    rw [hc, if_pos rfl] at add
    refine ⟨_, add, sum, fun _ => ⟨?_, ?_⟩, by simp⟩
    · rw [reg_setReg_same, flagByte_toNat (addIOverflowOf_iff _ _)]
    · exact (keptI.mono (by simp)).trans ((kept_setReg t regF _).mono (by simp))
  | false =>
    rw [hc] at add
    exact ⟨t, add, sum, by simp, fun _ => keptI⟩

end Sys2Proof.Machine
end

section
/-!
PROOFS. A call followed by its return (43_subroutines_jumps.md R132), and the even pc (70_reset_and_hazards.md R245).
-/
namespace Sys2Proof.Machine

/-- Settles O35: the return pops what the call pushed, so sp and pc are back and only the entry that is dead again differs. -/
theorem callThenReturnRestores : Obligations.CallThenReturnRestores := by
  intro nnn s t p h ht
  obtain ⟨_, hcall, pushed, spCall, _, keptCall⟩ := (callPushesOrOverflows nnn s).1 h
  cases hcall.symm.trans ht
  obtain ⟨u, hret, popped, spRet, keptRet⟩ :=
    (returnPopsOrUnderflows (t.setPc p)).1 (by show 0 < t.sp.val; omega)
  have sp : u.sp = s.sp := Fin.ext (spRet.trans (Nat.sub_eq_of_eq_add spCall))
  have top : (⟨t.sp.val - 1, by omega⟩ : Fin 16) = ⟨s.sp.val, h⟩ := Fin.ext (Nat.sub_eq_of_eq_add spCall)
  have pc : u.pc = s.pc := popped.trans ((congrArg t.entry top).trans pushed)
  have whole : KeptExcept [.sp, .pc, .entry ⟨s.sp.val, h⟩] s u :=
    ((keptCall.mono (by simp)).trans ((kept_setPc t p).mono (by simp))).trans (keptRet.mono (by simp))
  exact ⟨u, hret, (whole.drop sp).drop pc⟩

/-! ## The even pc -/

theorem add_two_even {a : Word} (h : a.toNat % 2 = 0) : (a + 2).toNat % 2 = 0 := by bv_omega

theorem sub_two_even {a : Word} (h : a.toNat % 2 = 0) : (a - 2).toNat % 2 = 0 := by bv_omega

/-- The live stack stays even where stack and sp are kept. -/
theorem State.EvenPc.of_stack_kept {ps : List Part} {s t : State} (h : s.EvenPc) (k : KeptExcept ps s t)
    (hsp : Part.sp ∉ ps) (he : ∀ j, Part.entry j ∉ ps) (hpc : t.pc.toNat % 2 = 0) : t.EvenPc := by
  refine ⟨hpc, fun j hj => ?_⟩
  have sp : t.sp = s.sp := k .sp hsp
  have entry : t.entry j = s.entry j := k (.entry j) (he j)
  rw [entry]
  exact h.2 j (sp ▸ hj)

theorem State.EvenPc.of_kept {ps : List Part} {s t : State} (h : s.EvenPc) (k : KeptExcept ps s t)
    (hpc : Part.pc ∉ ps := by simp) (hsp : Part.sp ∉ ps := by simp) (he : ∀ j, Part.entry j ∉ ps := by simp) :
    t.EvenPc := by
  have pc : t.pc = s.pc := k .pc hpc
  exact h.of_stack_kept k hsp he (pc ▸ h.1)

theorem State.EvenPc.setPc {s : State} (h : s.EvenPc) {a : Word} (ha : a.toNat % 2 = 0) : (s.setPc a).EvenPc :=
  ⟨ha, h.2⟩

theorem State.EvenPc.advance {s : State} (h : s.EvenPc) : s.advance.EvenPc := h.setPc (add_two_even h.1)

/-- A raise puts back an even pc, or passes over its word. -/
theorem State.EvenPc.raise {s : State} (h : s.EvenPc) (f : Fault) {a : Word} (w : Option Word) (ha : a.toNat % 2 = 0) :
    (s.raise f a w).EvenPc := by
  rcases raise_cases s f a w with ⟨_, _, e⟩ | ⟨_, e⟩ <;> rw [e]
  · exact h.setPc (add_two_even ha)
  · exact (h.setPc ha).of_kept (kept_setStatus _ _)

theorem State.EvenPc.raiseInHandler {s : State} (h : s.EvenPc) (f : Fault) (w : Word) : (s.raiseInHandler f w).EvenPc :=
  h.raise f _ (sub_two_even h.1)

theorem State.EvenPc.skipIf {s : State} (h : s.EvenPc) (c : Bool) : (s.skipIf c).EvenPc := by
  cases c with
  | false => exact h
  | true => exact h.setPc (add_two_even h.1)

/-- A call pushes the even pc after it and goes to an even target. -/
theorem State.EvenPc.exec_call {s t : State} {nnn : Addr} (h : s.EvenPc) (htarget : nnn.toNat % 2 = 0)
    (he : exec (.call nnn) s = .next t) : t.EvenPc := by
  by_cases hs : s.sp.val < 16
  · obtain ⟨_, hcall, pushed, hsp, hpc, kept⟩ := (callPushesOrOverflows nnn s).1 hs
    cases hcall.symm.trans he
    refine ⟨hpc ▸ htarget, fun j hj => ?_⟩
    by_cases hj' : j = ⟨s.sp.val, hs⟩
    · rw [hj', pushed]
      exact h.1
    · have entry : t.entry j = s.entry j := kept (.entry j) (by simp [hj'])
      have below : j.val < s.sp.val := by
        have hne : j.val ≠ s.sp.val := fun e => hj' (Fin.ext e)
        omega
      rw [entry]
      exact h.2 j below
  · cases (exec_call_full nnn s (by omega)).symm.trans he
    exact h.raiseInHandler _ _

/-- A return goes to a live entry, and the entries below it stay live. -/
theorem State.EvenPc.exec_ret {s t : State} (h : s.EvenPc) (he : exec .ret s = .next t) : t.EvenPc := by
  by_cases hs : 0 < s.sp.val
  · obtain ⟨_, hret, popped, hsp, kept⟩ := (returnPopsOrUnderflows s).1 hs
    cases hret.symm.trans he
    refine ⟨?_, fun j hj => ?_⟩
    · rw [popped]
      exact h.2 _ (Nat.sub_lt hs Nat.one_pos)
    · have entry : t.entry j = s.entry j := kept (.entry j) (by simp)
      rw [entry]
      exact h.2 j (by omega)
  · cases (exec_ret_empty s (by omega)).symm.trans he
    exact h.raiseInHandler _ _

/-- An instruction whose target is even keeps pc and the live stack even. -/
theorem State.EvenPc.exec {i : Instr} {s t : State} (h : s.EvenPc) (htarget : i.evenTarget s)
    (he : exec i s = .next t) : t.EvenPc := by
  obtain ⟨jump, call, offset⟩ := htarget
  have kept := exec_kept i s t he
  cases i with
  | sys nnn => cases he; exact h.raiseInHandler _ _
  | jp nnn => cases he; exact h.setPc (by rw [zext16_toNat]; exact jump nnn rfl)
  | jpOff nnn => cases he; exact h.setPc (by rw [offsetTarget_toNat]; exact offset nnn rfl)
  | seImm | sneImm | seReg | sneReg | skp | sknp => cases he; exact h.skipIf _
  | call nnn => exact h.exec_call (call nnn rfl) he
  | ret => exact h.exec_ret he
  | addI x =>
    refine h.of_kept kept ?_ ?_ ?_ <;> simp only [writes] <;> split <;> simp
  | _ => exact h.of_kept kept (by simp [writes]) (by simp [writes]) (by simp [writes])

theorem State.EvenPc.endOfCycle {s : State} (h : s.EvenPc) : s.endCycle.endSlot.EvenPc :=
  h.of_kept (kept_endCycle_endSlot s)

/-- Settles O37: each case of a step keeps pc and the live stack even. -/
theorem evenTargetsKeepPcEven : Obligations.EvenTargetsKeepPcEven := by
  intro s t h htarget hstep
  cases step_cases hstep with
  | idle => exact h
  | frameEnd => exact h.of_kept (kept_frameEnd s)
  | shutdown => exact h.of_kept (kept_setStatus_endSlot s _)
  | waiting _ r => exact (h.of_kept (kept_waitingCycle s r)).of_kept (kept_endSlot _)
  | fetchFault => exact (h.raise _ _ h.1).of_kept (kept_endSlot _)
  | unknown => exact (h.raise _ _ h.1).endOfCycle
  | run w hf i hd u he => exact (h.advance.exec (htarget i ⟨w, hf, hd⟩) he).endOfCycle

end Sys2Proof.Machine
end

section
/-!
PROOFS. Power-on meets the invariant (10_state.md R40).
-/
namespace Sys2Proof.Machine

/-- Settles O57: power-on is its own load reset, and lists nothing in memory. -/
theorem powerOnMeetsInvariant : Obligations.PowerOnMeetsInvariant := fun c =>
  inv_loadReset (s := State.powerOn c) (Memory.wf_nil _)

end Sys2Proof.Machine
end

section
/-!
PROOFS. DXYN (46_display.md R160, R162): the pixels its sprite covers, each inverted once, and the second draw that inverts them back.
-/
namespace Sys2Proof.Machine

/-- Settles O45: drawing a sprite is drawing the pixels it covers, and the flag is the hit. -/
theorem drawInvertsCoveredPixels : Obligations.DrawInvertsCoveredPixels := by
  intro x y n s
  obtain ⟨inside, outside, hit⟩ := draw_drew s x y n
  have drawn : exec (.drw x y n) s =
      .next ((s.setDisplay (s.draw x y n).1).setReg regF (flagByte (s.draw x y n).2)) := rfl
  have flag : (s.draw x y n).2 = true ↔ ∃ yy xx, s.Covers x y n yy xx ∧ s.pixel yy xx = true :=
    hit.trans (or_iff_right (by simp))
  refine ⟨_, drawn, fun yy xx => ⟨inside yy xx, outside yy xx⟩, fun h => ?_, fun h => ?_, exec_kept _ _ _ drawn⟩ <;>
    rw [reg_setReg_same]
  · rw [flag.2 h]; rfl
  · rw [Bool.eq_false_iff.2 (mt flag.1 h)]; rfl

/-- The covered pixels depend on the corner's registers, I, memory and the configuration only. -/
theorem covers_iff_of_kept {ps : List Part} {s t : State} {x y : Reg} (k : KeptExcept ps s t) (hx : Part.reg x ∉ ps)
    (hy : Part.reg y ∉ ps) (hi : Part.i ∉ ps) (hb : ∀ a, Part.byte a ∉ ps) (hc : Part.cfg ∉ ps) (n : Fin 16) (yy : Fin 32)
    (xx : Fin 64) : t.Covers x y n yy xx ↔ s.Covers x y n yy xx := by
  have regX : t.reg x = s.reg x := k (.reg x) hx
  have regY : t.reg y = s.reg y := k (.reg y) hy
  have address : t.i = s.i := k .i hi
  have cfg : t.cfg = s.cfg := k .cfg hc
  have row : ∀ r, t.readByte (t.ea r) = s.readByte (s.ea r) := fun r => by
    rw [State.ea, address]
    exact k (.byte _) (hb _)
  simp only [State.Covers, row, regX, regY, cfg]

/-- Settles O46: the second draw covers the same pixels, so it inverts each of them back. -/
theorem drawingTwiceRestores : Obligations.DrawingTwiceRestores := by
  intro x y n s t hx hy ht
  obtain ⟨_, hdraw, first, _, _, kept⟩ := drawInvertsCoveredPixels x y n s
  cases hdraw.symm.trans ht
  obtain ⟨u, hu, second, flag, noFlag, _⟩ := drawInvertsCoveredPixels x y n t
  have covers : ∀ yy xx, t.Covers x y n yy xx ↔ s.Covers x y n yy xx :=
    covers_iff_of_kept kept (by simp [hx]) (by simp [hy]) (by simp) (by simp) (by simp) n
  simp only [covers] at second flag noFlag
  refine ⟨u, hu, display_ext _ _ fun yy xx => ?_, fun h => ?_, flag⟩
  · show u.pixel yy xx = s.pixel yy xx
    by_cases hc : s.Covers x y n yy xx
    · rw [(second yy xx).1 hc, (first yy xx).1 hc, Bool.not_not]
    · rw [(second yy xx).2 hc, (first yy xx).2 hc]
  · by_contra hno
    exact absurd (h.symm.trans (noFlag hno)) (by decide)

end Sys2Proof.Machine
end

section
/-!
PROOFS. Memory transfers (48_bcd_bulk.md R180 to R182): the bytes stored and loaded, and the code that a store writes.
-/
namespace Sys2Proof.Machine

/-! ## BCD -/

theorem hundreds_toNat (b : Byte) : (hundreds b).toNat = b.toNat / 100 :=
  Nat.mod_eq_of_lt (by omega)

theorem tens_toNat (b : Byte) : (tens b).toNat = b.toNat / 10 % 10 :=
  Nat.mod_eq_of_lt (by omega)

theorem ones_toNat (b : Byte) : (ones b).toNat = b.toNat % 10 :=
  Nat.mod_eq_of_lt (by omega)

theorem ea_toNat_ne (s : State) {j k : Nat} (hj : j < 4096) (hk : k < 4096) (h : j ≠ k) :
    (s.ea j).toNat ≠ (s.ea k).toNat :=
  fun e => h (ea_injective s hj hk (BitVec.eq_of_toNat_eq e))

/-- Settles O48: three writes at distinct addresses. -/
theorem bcdStoresThreeDigits : Obligations.BcdStoresThreeDigits := by
  intro x s
  have bcd : exec (.bcd x) s = .next (((s.writeByte (s.ea 0) (hundreds (s.reg x))).writeByte (s.ea 1)
    (tens (s.reg x))).writeByte (s.ea 2) (ones (s.reg x))) := rfl
  have apart01 : (s.ea 0).toNat ≠ (s.ea 1).toNat := ea_toNat_ne s (by omega) (by omega) (by omega)
  have apart02 : (s.ea 0).toNat ≠ (s.ea 2).toNat := ea_toNat_ne s (by omega) (by omega) (by omega)
  have apart12 : (s.ea 1).toNat ≠ (s.ea 2).toNat := ea_toNat_ne s (by omega) (by omega) (by omega)
  refine ⟨fun k _ => ea_toNat s k, _, bcd, ?_, ?_, ?_, exec_kept _ _ _ bcd⟩
  · rw [byteAt_writeByte, if_neg apart02, byteAt_writeByte, if_neg apart01, byteAt_writeByte, if_pos rfl, hundreds_toNat]
  · rw [byteAt_writeByte, if_neg apart12, byteAt_writeByte, if_pos rfl, tens_toNat]
  · rw [byteAt_writeByte, if_pos rfl, ones_toNat]

/-! ## Bulk transfers -/

/-- I after a bulk transfer that has not touched it: advanced under the switch, else kept. -/
theorem bumpI_i_of_kept {ps : List Part} {s t : State} (x : Reg) (k : KeptExcept ps s t) (hi : Part.i ∉ ps)
    (hc : Part.cfg ∉ ps) :
    (s.cfg.loadStoreInc = true → (t.bumpI x).i.toNat = (s.i.toNat + x.val + 1) % 4096) ∧
      (s.cfg.loadStoreInc = false → (t.bumpI x).i = s.i) := by
  have address : t.i = s.i := k .i hi
  have cfg : t.cfg = s.cfg := k .cfg hc
  rw [bumpI_i, cfg, address]
  refine ⟨fun h => ?_, fun h => by simp [h]⟩
  rw [if_pos h, zext16_toNat, ea_toNat, address, Nat.add_assoc]

/-- Settles O49: the stores, then the move of I, which touches no byte. -/
theorem bulkStoreWritesRange : Obligations.BulkStoreWritesRange := by
  intro x s
  have store : exec (.store x) s = .next ((s.storeRegs (regsUpTo x)).bumpI x) := rfl
  obtain ⟨advanced, same⟩ := bumpI_i_of_kept x (kept_storeRegs s x) (by simp) (by simp)
  refine ⟨fun k _ => ea_toNat s k, _, store, fun r hr => ?_, advanced, same, exec_kept _ _ _ store⟩
  have byte : ((s.storeRegs (regsUpTo x)).bumpI x).byteAt (s.ea r.val).toNat =
      (s.storeRegs (regsUpTo x)).byteAt (s.ea r.val).toNat := kept_bumpI _ x (.byte _) (by simp)
  exact byte.trans ((byteAt_storeRegs s x _).1 r hr rfl)

/-- Settles O50: the loads, then the move of I, which touches no register. -/
theorem bulkLoadReadsRange : Obligations.BulkLoadReadsRange := by
  intro x s
  have load : exec (.load x) s = .next ((s.loadRegs (regsUpTo x)).bumpI x) := rfl
  obtain ⟨advanced, same⟩ := bumpI_i_of_kept x (kept_loadRegs s x) (by simp) (by simp)
  refine ⟨fun k _ => ea_toNat s k, _, load, fun r hr => ?_, advanced, same, exec_kept _ _ _ load⟩
  have reg : ((s.loadRegs (regsUpTo x)).bumpI x).reg r = (s.loadRegs (regsUpTo x)).reg r :=
    kept_bumpI _ x (.reg r) (by simp)
  exact reg.trans ((reg_loadRegs s x r).trans (if_pos hr))

/-- After FX55 the bytes it stores to hold V0..VX. -/
theorem byteAt_of_exec_store {x r : Reg} {s t : State} (h : exec (.store x) s = .next t) (hr : r ≤ x) :
    t.byteAt (s.ea r.val).toNat = s.reg r := by
  obtain ⟨_, _, hstore, stored, _⟩ := bulkStoreWritesRange x s
  cases hstore.symm.trans h
  exact stored r hr

/-- Settles O51: the load reads the bytes that the store wrote, at the same addresses. -/
theorem storeThenLoadRestores : Obligations.StoreThenLoadRestores := by
  intro x s t u hstore hmem hcfg hi
  obtain ⟨_, v, hload, loaded, _⟩ := bulkLoadReadsRange x u
  refine ⟨v, hload, fun r hr => ?_⟩
  have address : u.ea r.val = s.ea r.val := by rw [State.ea, hi, State.ea]
  have font : u.fb = t.fb := by rw [State.fb, hcfg, ← (exec_driverKept hstore).cfg, State.fb]
  have byte : ∀ a, u.byteAt a = t.byteAt a := fun a => by rw [State.byteAt, font, hmem, State.byteAt]
  rw [loaded r hr, address, byte, byteAt_of_exec_store hstore hr]

/-- Settles O52: pc is kept, and the two bytes at it are those stored for V[j] and V[k]. -/
theorem storedCodeIsFetchedNext : Obligations.StoredCodeIsFetchedNext := by
  intro s t x j k hjk hk hpc hrange hstore
  have pc : t.pc = s.pc := exec_kept _ _ _ hstore .pc (by simp [writes])
  have next : s.pc.toNat + 1 = (s.ea k.val).toNat := by
    rw [ea_toNat] at hpc ⊢
    omega
  have hj : j ≤ x := (Fin.le_def.2 (by omega)).trans hk
  refine (fetch_eq_some t _).2 ⟨pc ▸ hrange, ?_⟩
  rw [pc, next, byteAt_of_exec_store hstore hk, hpc, byteAt_of_exec_store hstore hj]

end Sys2Proof.Machine
end
